-- ==== Sys2Proof/Word.lean ====
section
/-! DEFINITION. The words the EJ-420's manual computes with: bytes, 32-bit words, 40-bit byte addresses, page
numbers, and the numbers it counts with (sequence numbers, epochs, times, segment indexes). -/

namespace Sys2Proof

/-- One byte of a transfer. -/
abbrev Byte := BitVec 8

/-- A register, and one word of journal memory (00, Conventions: 32 bits). -/
abbrev Word := BitVec 32

/-- A byte address on the memory path (00, Conventions: 40 bits). -/
abbrev Addr := BitVec 40

/-- The number of a 4 KiB page, address bits 39:12 (R1). -/
abbrev Page := BitVec 28

/-- An upstream tag, 0 to 15 (R146). -/
abbrev Tag := Fin 16

/-- A downstream tag, one of a pool of 32 (R152). -/
abbrev DTag := Fin 32

/-- A channel, 0 to 3 (R18). -/
abbrev Chan := Fin 4

/-- An epoch number: 32 bits (R18). -/
abbrev Epoch := BitVec 32

/-- A record's sequence number. The part gives 1 to 2^48 - 2 and halts rather than go further (R98), so it never
wraps: it is a count, and a 48-bit field only where it is stored or shown. -/
abbrev Seq := Nat

/-- A moment, in microseconds (00, Conventions: times). -/
abbrev Time := Nat

end Sys2Proof
end

