-- ==== Sys2Proof/Config.lean ====
section
/-! DEFINITION. What the manual fixes once for the part: the capacities of its queues, the journal's constants and the
identification value. The manual leaves no result open, so there is no free value here. -/

namespace Sys2Proof.Config

/-- Requests the intake queue holds (R150). -/
def intakeDepth : Nat := 16

/-- Entries the hold queue holds (R51). -/
def holdDepth : Nat := 8

/-- Entries the line tracker holds (R46). -/
def trackerDepth : Nat := 1024

/-- Microseconds in one unit of HOLD_LIMIT (R53). -/
def holdUnit : Nat := 10

/-- The highest sequence number the writer gives: 2^48 - 2 (R98). -/
def maxSeq : Seq := 281474976710654

/-- The last epoch a channel can have (R37). -/
def lastEpoch : Epoch := 0xFFFFFFFF#32

/-- The magic word of a segment header (R74). -/
def segmentMagic : Word := 0x4A455348#32

/-- What the ID register reads (R175). -/
def idValue : Word := 0x0E420420#32

/-- Slots of a segment that its header takes; records begin at slot 2 (R70). -/
def headerSlots : Nat := 2

/-- Slots kept from UNDO and TORN records once no segment is FREE (R94). -/
def reserveSlots : Nat := 4

/-- How many internal events one step carries out at most. The longest chain is far shorter: each of at most 9
requests, 4 commits, 4 rollbacks, 4 waiting control requests and 4 copy slots moves on a bounded number of times
(log 9). -/
def settleFuel : Nat := 1024

end Sys2Proof.Config
end

