-- ==== Sys2Proof/Syntax.lean ====
section
/-! DEFINITION. The commands of the EJ-420: one constructor of `Instr` for each row of spec/opcode_table.json, with the
row's operands. A row that memory sends (an answer) carries its downstream tag and what memory answered; a row of the
management link carries the register and the value of its group. -/

namespace Sys2Proof

/-- The kind of a request on either port (8.1). -/
inductive Kind where
  | read
  | write
deriving DecidableEq, Repr

/-- An upstream request as the system presents it (8.1). `enables` and `data` are of a write, one of each per byte. -/
structure Request where
  tag : Tag
  kind : Kind
  addr : Addr
  len : Nat
  enables : List Bool
  data : List Byte
deriving DecidableEq, Repr

/-- What memory answers a read (R152). -/
inductive ReadAnswer where
  | done (data : List Byte)
  | failed
deriving DecidableEq, Repr

/-- What memory answers a write (R152). -/
inductive WriteAnswer where
  | done
  | failed
deriving DecidableEq, Repr

/-- The registers of the region window that hold the selected entry (R2). -/
inductive RegionReg where
  | base
  | limit
  | control
deriving DecidableEq, Repr

/-- The registers of the configuration group outside the region window (R14). -/
inductive ConfigReg where
  | journalBase
  | journalGeometry
  | journalId
  | excludeLo
  | excludeHi
  | channelControl (c : Chan)
deriving DecidableEq, Repr

/-- The commands. The comment gives each row's rule. -/
inductive Instr where
  | powerOnReset                                                  -- R159
  | pinReset                                                      -- R159
  | pfailAssertion                                                -- R161
  | pfailNegation                                                 -- R162
  | upstreamRequest (r : Request)                                 -- R145
  | classifyRequest                                               -- R5
  | arbiterTurn (t : DTag)                                        -- R155, t the free tag it takes
  | ptAnswerDone (t : DTag) (data : List Byte)                    -- R157
  | ptAnswerFailed (t : DTag)                                     -- R158
  | copyReadDone (t : DTag) (data : List Byte)                    -- R62
  | copyReadFailed (t : DTag)                                     -- R65
  | recordWriteDone (t : DTag)                                    -- R100
  | recordWriteFailed (t : DTag)                                  -- R101
  | rollbackHeaderReadAnswered (t : DTag) (a : ReadAnswer)        -- R119
  | rollbackPayloadReadAnswered (t : DTag) (a : ReadAnswer)       -- R120
  | rollbackRestoreWriteAnswered (t : DTag) (a : WriteAnswer)     -- R120
  | scanReadAnswered (t : DTag) (a : ReadAnswer)                  -- R133
  | recoveryRestoreReadAnswered (t : DTag) (a : ReadAnswer)       -- R136
  | recoveryRestoreWriteAnswered (t : DTag) (a : WriteAnswer)     -- R136
  | formatHeaderWriteAnswered (t : DTag) (a : WriteAnswer)        -- R130
  | rebaseHeaderWriteAnswered (t : DTag) (a : WriteAnswer)        -- R139
  | staleDownstreamAnswer (t : DTag)                              -- R152
  | holdExpiry (tag : Tag)                                        -- R58, the entry of this upstream tag
  | commitDeadlineExpiry (c : Chan)                               -- R33
  | recover                                                       -- R129
  | format                                                        -- R130
  | start                                                         -- R107
  | stop                                                          -- R108
  | returnSegment (n : Fin 64)                                    -- R106
  | softReset                                                     -- R178
  | unknownCommand (code : BitVec 3)                              -- R177
  | drainEnd                                                      -- R181
  | regionEntryWrite (r : RegionReg) (v : Word)                   -- R2
  | configGroupWrite (r : ConfigReg) (v : Word)                   -- R14
  | markerCodeWrite (c : Chan) (v : Word)                         -- R20
  | eventClear (v : Word)                                         -- R188
  | eventSet (v : Word)                                           -- R188
  | eventEnable (v : Word)                                        -- R189
  | pairLoRead (index : BitVec 7)                                 -- R173
  | registerWrite (index : BitVec 7) (v : Word)                   -- R172
  | commandByte (b : Byte)                                        -- R171
  | frameEnd (trailing : List Byte)                               -- R172, the bytes of a group cut short
deriving DecidableEq, Repr

end Sys2Proof
end

