-- ==== Sys2Proof/WellFormed.lean ====
section
/-! DEFINITION. Which commands a sender can form: what a row's operands must satisfy for the event they describe to
exist. `exec` is total all the same; a statement that needs one of these checks names it. -/

namespace Sys2Proof

/-- The registers marked "pair" that are the _LO half (R173, R175). -/
def pairLoIndexes : List (BitVec 7) := [0x19#7, 0x1B#7, 0x22#7, 0x54#7, 0x56#7, 0x59#7, 0x5B#7]

/-- A write carries one enable and one byte of data for each byte of its length, a read none (8.1). A request of a bad
length is well formed: R148 answers it. -/
def Request.wf (r : Request) : Bool :=
  match r.kind with
  | .read => r.enables.isEmpty && r.data.isEmpty
  | .write => r.enables.length == r.len && r.data.length == r.len

/-- Whether a sender can form the command. -/
def Instr.wf : Instr → Bool
  | .upstreamRequest r => r.wf
  | .ptAnswerDone _ data => data.length ≤ 256
  | .copyReadDone _ data => data.length == 64
  | .unknownCommand code => code == 0#3 || code == 7#3
  | .pairLoRead index => pairLoIndexes.contains index
  | .frameEnd trailing => trailing.length ≤ 3
  | .powerOnReset | .pinReset | .pfailAssertion | .pfailNegation | .classifyRequest | .arbiterTurn _ => true
  | .ptAnswerFailed _ | .copyReadFailed _ | .recordWriteDone _ | .recordWriteFailed _ => true
  | .rollbackHeaderReadAnswered _ _ | .rollbackPayloadReadAnswered _ _ | .rollbackRestoreWriteAnswered _ _ => true
  | .scanReadAnswered _ _ | .recoveryRestoreReadAnswered _ _ | .recoveryRestoreWriteAnswered _ _ => true
  | .formatHeaderWriteAnswered _ _ | .rebaseHeaderWriteAnswered _ _ | .staleDownstreamAnswer _ => true
  | .holdExpiry _ | .commitDeadlineExpiry _ | .recover | .format | .start | .stop | .returnSegment _ => true
  | .softReset | .drainEnd | .regionEntryWrite _ _ | .configGroupWrite _ _ | .markerCodeWrite _ _ => true
  | .eventClear _ | .eventSet _ | .eventEnable _ | .registerWrite _ _ | .commandByte _ => true

end Sys2Proof
end

