-- ==== Sys2Proof/Decode.lean ====
section
/-! DEFINITION. The table gives no row any bits (opcode_table.json: "fields": [] and no "fixed" in every row): a command
of this block is an event, not a word. So no word spells a command. -/

namespace Sys2Proof

/-- The command a word spells by the table's bits: none, because the table gives bits to no row. -/
def decodeTableWord (_nbits _w : Nat) : Option Instr := none

end Sys2Proof
end

