-- ==== Sys2Proof/Machine/State.lean ====
section
/-! DEFINITION. The state of the EJ-420: a record for each block of the manual's Block Overview, the part made of them,
and the part with the queue of commands that wait for it. Every field is plain data. `State.reset` is the state right
after a power-on reset. -/

namespace Sys2Proof.Machine

/-! ### The memory path (08) -/

/-- An upstream response code (00, Conventions). -/
inductive RespCode where
  | done
  | refused
  | failed
deriving DecidableEq, Repr

/-- An upstream response: its tag, its code and, for a read answered DONE, the data (8.1). -/
structure Response where
  tag : Tag
  code : RespCode
  data : List Byte
deriving DecidableEq, Repr

/-- Why a request was a protocol error (R149). -/
inductive ProtocolReason where
  | none
  | tagInUse
  | badLength
  | blockCrossing
deriving DecidableEq, Repr

/-- PROTOCOL_STATUS: the most recent protocol error (R149). -/
structure ProtocolStatus where
  tag : Tag
  kind : Kind
  reason : ProtocolReason
deriving DecidableEq, Repr

/-- The class of an address (R1). -/
inductive RegionClass where
  | pass
  | guarded
  | strict
  | lenient
  | marker
deriving DecidableEq, Repr

/-- The classification record the head of the intake queue keeps while it waits for a hold entry (R5, R56). `counted`:
the classifier took it while its channel was OPEN, so it is already among the journaled writes (R39). -/
structure Classification where
  cls : RegionClass
  channel : Chan
  region : Fin 16
  counted : Bool
deriving DecidableEq, Repr

/-- An entry of the intake queue: the request as received and, at the head, its record once classified (R150). -/
structure IntakeEntry where
  req : Request
  cls : Option Classification
deriving DecidableEq, Repr

/-- The upstream port. `responses` is the model's record of every response sent, oldest first; nothing reads it. -/
structure Port where
  tags : Vector Bool 16
  intake : List IntakeEntry
  protocol : ProtocolStatus
  responses : List Response
deriving DecidableEq, Repr

/-- The block that waits for a downstream request's answer, and what it is to it (R151, R99, R61, R119, R133).
`plain`: nothing but the response upstream hangs on it. `direct`: a direct write of the channel (R45). `held`: the hold
entry of that tag is in FORWARDING. `copy`: the copy read of the slot. `record` and `header`: a piece of the write of the
record of that number, the write of the segment's header. `rollback` and `recovery`: the piece of the restore engine's
transfer in flight. -/
inductive Purpose where
  | plain (tag : Tag)
  | direct (tag : Tag) (c : Chan)
  | held (tag : Tag)
  | copy (slot : Fin 4)
  | record (seq : Seq)
  | header (seg : Nat)
  | rollback (piece : Nat)
  | recovery (piece : Nat)
deriving DecidableEq, Repr

/-- The four requesters of the downstream arbiter (8.4). -/
inductive Requester where
  | pt
  | rw
  | cr
  | rs
deriving DecidableEq, Repr

/-- A downstream request (R152). -/
structure DownReq where
  purpose : Purpose
  kind : Kind
  addr : Addr
  len : Nat
  enables : List Bool
  data : List Byte
deriving DecidableEq, Repr

/-- The arbiter mode (R156). -/
inductive ArbiterMode where
  | fair
  | engineFirst
deriving DecidableEq, Repr

/-- The side that took the last turn (R155). -/
inductive Side where
  | pt
  | engine
deriving DecidableEq, Repr

/-- The downstream arbiter: what waits to be issued, in hand-over order across the requesters (R153); the pool of
downstream tags with the request each holds (R152); mode and last-turn record (R155, R156). -/
structure Arbiter where
  waiting : List DownReq
  issued : Vector (Option DownReq) 32
  mode : ArbiterMode
  lastTurn : Side
deriving DecidableEq, Repr

/-! ### Classifier (01) -/

/-- A region table entry (R1). -/
structure RegionEntry where
  enabled : Bool
  base : Page
  limit : Page
  cls : RegionClass
  channel : Chan
deriving DecidableEq, Repr

/-- The journal geometry registers: JOURNAL_BASE (address bits 39:16), JOURNAL_GEOMETRY, JOURNAL_ID, SEGMENT_EXCLUDE
(R4, R71, R72, R175). -/
structure Geometry where
  base : BitVec 24
  sizeCode : BitVec 3
  count : BitVec 7
  identity : Word
  exclude : BitVec 64
deriving DecidableEq, Repr

/-- The classifier's registers. -/
structure Classifier where
  regions : Vector RegionEntry 16
  regionIndex : Fin 16
  geometry : Geometry
  inForce : Bool
  areaWrites : Word
deriving DecidableEq, Repr

/-! ### Saving lines (03) -/

/-- A tracker entry (R46). -/
structure TrackerEntry where
  line : Addr
  channel : Chan
  seq : Option Seq
deriving DecidableEq, Repr

/-- The substate of a changed line (R52); `held` carries the image in the line's buffer. A line not yet looked up is
`pending` too: it needs a copy as far as anyone knows. -/
inductive LineState where
  | pending
  | copying
  | held (image : List Byte)
  | placed (seq : Seq)
  | durable
deriving DecidableEq, Repr

/-- A covered line of a hold entry (R51). The substate means something only for a changed line of a write. -/
structure HoldLine where
  line : Addr
  changed : Bool
  sub : LineState
  untracked : Bool
deriving DecidableEq, Repr

/-- The state of a hold entry (R52). -/
inductive EntryState where
  | waitEpoch
  | waitLine
  | waitCopy
  | waitSpace
  | copying
  | recording
  | forwarding
deriving DecidableEq, Repr

/-- A hold queue entry (R51). Its upstream tag names it: the tag is outstanding, so no other entry has it. -/
structure HoldEntry where
  req : Request
  lines : List HoldLine
  cls : RegionClass
  channel : Chan
  region : Fin 16
  epoch : Option Epoch
  state : EntryState
  deadline : Option Time
  failed : Bool
  torn : Bool
deriving DecidableEq, Repr

/-- The write hold unit: the queue in queue order, HOLD_LIMIT, and the two tests that are due within the step because an
entry went to FORWARDING or left: R54 for the entries in WAIT_LINE, R56 for the head of the intake queue. -/
structure HoldUnit where
  queue : List HoldEntry
  limit : BitVec 16
  lineTest : Bool
  headRetry : Bool
deriving DecidableEq, Repr

/-- A copy slot in use (R60): the line read, its channel, and the hold entry it is for; none once that entry has left
the queue with the read still in flight. -/
structure CopySlot where
  line : Addr
  channel : Chan
  owner : Option Tag
deriving DecidableEq, Repr

/-! ### The journal (04) and its writer (05) -/

/-- The words of a record header as they stand in its slot (R74). -/
structure HeaderSlot where
  w0 : Word
  w1 : Word
  w2 : Word
  w3 : Word
  w4 : Word
  w5 : Word
  w6 : Word
  w7 : Word
deriving DecidableEq, Repr

/-- The kinds of record (R74). -/
inductive RecordKind where
  | undo
  | commit
  | abort
  | torn
  | pad
deriving DecidableEq, Repr

/-- A placement request (R94): the kind, channel and epoch, the flags, and the fields the kind carries: line, region
index and image of an UNDO record, the UNDO count of a COMMIT or ABORT record. -/
structure PlaceReq where
  kind : RecordKind
  channel : Chan
  epoch : Epoch
  torn : Bool
  fault : Bool
  overflowed : Bool
  line : Addr
  region : BitVec 16
  image : List Byte
  undoCount : Word
deriving DecidableEq, Repr

/-- The writer's condition (R89). -/
inductive WriterState where
  | stopped
  | running
  | suspended
  | halted
  | frozen
deriving DecidableEq, Repr

/-- Why the writer halted (R89). -/
inductive HaltCause where
  | none
  | recordWriteFault
  | sequenceExhausted
deriving DecidableEq, Repr

/-- The condition of a segment (R92). -/
inductive SegState where
  | free
  | active
  | closed
  | held
  | excluded
deriving DecidableEq, Repr

/-- A segment table entry (R92). -/
structure SegEntry where
  state : SegState
  first : Seq
  used : Nat
  lastLen : Nat
  mask : BitVec 4
deriving DecidableEq, Repr

/-- A record or header that has been placed and is not yet behind the frontier (R99, R100). `seq` is the record's
number, or the header's first sequence number; `unanswered` counts the pieces of its write not yet answered DONE. -/
structure JournalWrite where
  isHeader : Bool
  seq : Seq
  seg : Nat
  addr : Addr
  bytes : List Byte
  presented : Bool
  unanswered : Nat
  failed : Bool
deriving DecidableEq, Repr

/-- The journal writer (R89), with RETAIN (R105). -/
structure Writer where
  state : WriterState
  haltCause : HaltCause
  haltSegment : Option Nat
  active : Option Nat
  next : Seq
  frontier : Seq
  waiting : List PlaceReq
  table : List SegEntry
  journal : List JournalWrite
  retain : Bool
deriving DecidableEq, Repr

/-! ### Channels (02) -/

/-- The rollback substate (R18). -/
inductive Substate where
  | queued
  | draining
  | restoring
  | recording
deriving DecidableEq, Repr

/-- A channel's phase; the substate is present only in ROLLING_BACK (R18). -/
inductive ChannelState where
  | idle
  | opened
  | committing
  | rollingBack (sub : Substate)
deriving DecidableEq, Repr

/-- The action of the last recognised marker (R184). -/
inductive MarkerAction where
  | none
  | commit
  | abort
deriving DecidableEq, Repr

/-- The result of the last recognised marker (R184). -/
inductive MarkerResult where
  | none
  | pending
  | done
  | refused
  | failed
deriving DecidableEq, Repr

/-- The reason recorded with the result (R184). -/
inductive MarkerReason where
  | none
  | unknownAction
  | channelState
  | epochMismatch
  | writerHalted
  | frozen
  | deadline
  | softReset
  | torn
  | fault
deriving DecidableEq, Repr

/-- The last marker result (R18). -/
structure LastMarker where
  action : MarkerAction
  result : MarkerResult
  reason : MarkerReason
deriving DecidableEq, Repr

/-- The marker in progress (R18): its tag, its action, its deadline, and the COMMIT record's number once placed (R31). -/
structure Marker where
  tag : Tag
  action : MarkerAction
  deadline : Option Time
  record : Option Seq
deriving DecidableEq, Repr

/-- How an epoch ended (R40). -/
inductive EpochOutcome where
  | none
  | committed
  | aborted
deriving DecidableEq, Repr

/-- The last-epoch summary (R40). -/
structure Summary where
  epoch : Epoch
  outcome : EpochOutcome
  journaledWrites : Word
  saves : Word
  trackerHits : Word
  untrackedSaves : Word
  holdExpiries : Word
  torn : Bool
  overflow : Bool
  faulted : Bool
deriving DecidableEq, Repr

/-- What the epoch controller holds for a channel (R18), with the hold unit's TORN record status (R51). `records` is the
records-in-epoch count and, being the same counter, the saves counter (R39). -/
structure Channel where
  enabled : Bool
  code : Word
  state : ChannelState
  exhausted : Bool
  epoch : Epoch
  resolved : Epoch
  outstanding : Nat
  records : Word
  torn : Bool
  overflow : Bool
  tornRecord : Option Seq
  marker : Option Marker
  last : LastMarker
  journaledWrites : Word
  trackerHits : Word
  untrackedSaves : Word
  holdExpiries : Word
  summary : Summary
  committed : Word
  aborted : Word
deriving DecidableEq, Repr

/-! ### The restore engine (06, 07) -/

/-- One piece of a transfer that may be split at a block boundary (R154). -/
inductive Piece where
  | waiting
  | done (data : List Byte)
  | failed
deriving DecidableEq, Repr

/-- A segment of the walk list (R118): its start slot, its first sequence, and whether its last record is S. -/
structure WalkSegment where
  seg : Nat
  startSlot : Nat
  first : Seq
  endsAtS : Bool
deriving DecidableEq, Repr

/-- The cursor (R112): the slot the walk reads next in the first segment of the walk list, and the number its record
must carry; none at a segment's start slot. -/
structure Cursor where
  slot : Nat
  expected : Option Seq
deriving DecidableEq, Repr

/-- The walk's transfer in flight (R119, R120), with the header it belongs to. -/
inductive WalkStage where
  | idle
  | header
  | payload (h : HeaderSlot) (pieces : List Piece)
  | restore (h : HeaderSlot)
deriving DecidableEq, Repr

/-- The phase of a rollback (R112). -/
inductive RollbackPhase where
  | draining
  | restoring
  | recording
deriving DecidableEq, Repr

/-- The rollback context (R112). The head of `walk` is the segment the cursor is in. -/
structure Rollback where
  channel : Chan
  epoch : Epoch
  phase : RollbackPhase
  start : Option Seq
  walk : List WalkSegment
  cursor : Option Cursor
  fault : Bool
  found : Nat
  abortRecord : Option Seq
  stage : WalkStage
deriving DecidableEq, Repr

/-- The rollback status (R112). -/
structure RollbackStatus where
  channel : Option Chan
  restored : Nat
  skipped : Nat
  cursorSegment : Option Nat
deriving DecidableEq, Repr

/-- The recovery state (R128). -/
inductive RecoveryState where
  | unrecovered
  | scanning
  | restoring
  | rebasing
  | ready
  | failed
deriving DecidableEq, Repr

/-- The failure reason of a recovery or format (R132). -/
inductive FailureReason where
  | none
  | readFault
  | noJournal
  | journalInconsistent
  | restoreFault
  | sequenceExhausted
  | rebaseFault
  | frozen
deriving DecidableEq, Repr

/-- The header status of a segment in the recovery tables (R131). -/
inductive HeaderStatus where
  | notRead
  | invalid
  | empty
  | used
deriving DecidableEq, Repr

/-- Why the forward scan of a segment ended (R87). -/
inductive ScanEnd where
  | full
  | invalid
  | pad
deriving DecidableEq, Repr

/-- The recovery tables' record of one segment (R131), with the end reason of its forward scan (R87); none until the scan
has ended. `last`: number and first slot of the last accepted record. -/
structure SegmentScan where
  status : HeaderStatus
  first : Seq
  last : Option (Seq × Nat)
  accepted : Nat
  ended : Option ScanEnd
  highest : Vector (Option Epoch) 4
deriving DecidableEq, Repr

/-- A COMMIT or ABORT record as the tables and the report keep it (R131). -/
structure EndRecord where
  isAbort : Bool
  epoch : Epoch
  torn : Bool
  fault : Bool
  overflowed : Bool
  undoCount : Word
deriving DecidableEq, Repr

/-- The recovery tables' record of one channel (R131). The end-record bound is the epoch of the last end record, which
is by definition the accepted one with the largest epoch. -/
structure ChannelScan where
  headerBound : Epoch
  highestSaved : Option Epoch
  highestTorn : Option Epoch
  lastEnd : Option EndRecord
deriving DecidableEq, Repr

/-- The recovery tables (R131). -/
structure RecoveryTables where
  segments : List SegmentScan
  channels : Vector ChannelScan 4
  validHeaders : Nat
  usedHeaders : Nat
  highestSeq : Seq
deriving DecidableEq, Repr

/-- The kind of a recovery report (R132). -/
inductive ReportKind where
  | none
  | recover
  | format
deriving DecidableEq, Repr

/-- The outcome of a recovery report (R132). -/
inductive ReportOutcome where
  | none
  | done
  | failed
deriving DecidableEq, Repr

/-- The part of the recovery report of one channel (R132); its last end record is the tables'. -/
structure ChannelReport where
  resolved : Epoch
  openEpoch : Option Epoch
  tornFound : Bool
  restored : Nat
  skipped : Nat
  epochsRestored : Nat
deriving DecidableEq, Repr

/-- The recovery report (R132); its header counts and highest sequence seen are the tables'. -/
structure Report where
  kind : ReportKind
  outcome : ReportOutcome
  reason : FailureReason
  faultSegment : Option Nat
  faultSeq : Option Seq
  faultLine : Option Addr
  secondSegment : Option Nat
  newFirst : Seq
  channels : Vector ChannelReport 4
deriving DecidableEq, Repr

/-- What recovery or format has in flight: the read of a header, a header slot or a whole UNDO record in SCANNING
(R133); the read of a header slot or a payload, or a line write, in RESTORING (R136); an EMPTY or ACTIVE header write in
REBASING (R130, R138). -/
inductive RecoveryStage where
  | idle
  | scanHeader (seg : Nat)
  | scanSlot (seg slot : Nat) (expected : Seq)
  | scanRecord (seg slot : Nat) (expected : Seq) (pieces : List Piece)
  | backHeader (seg slot : Nat) (expected : Seq)
  | backPayload (seg slot : Nat) (expected : Seq) (h : HeaderSlot) (pieces : List Piece)
  | backWrite (seg slot : Nat) (expected : Seq) (h : HeaderSlot)
  | formatHeader (seg : Nat)
  | activeHeader (seg : Nat)
deriving DecidableEq, Repr

/-- The restore engine. `left`: the segments RESTORING has still to walk after the one in hand; `previous`: the epoch of
each channel's last restored record (R136). -/
structure RestoreEngine where
  abortQueue : List Chan
  rollback : Option Rollback
  status : RollbackStatus
  recovery : RecoveryState
  lastFailure : FailureReason
  stage : RecoveryStage
  left : List Nat
  previous : Vector (Option Epoch) 4
  tables : RecoveryTables
  report : Report
deriving DecidableEq, Repr

/-! ### Management link (10), event unit (11), power-fail monitor (09) -/

/-- A frame in progress (R171): its direction, the index of the group in hand (of the next register written in a write frame,
of the last register sampled in a read frame), and the upper part captured with the _LO register just sampled (R173). -/
structure Frame where
  isWrite : Bool
  index : BitVec 7
  capture : Option Word
deriving DecidableEq, Repr

/-- Where the link stands: between frames, in one, or ignoring the clock until chip-select has been high (R174). -/
inductive FrameState where
  | idle
  | ignoring
  | frame (f : Frame)
deriving DecidableEq, Repr

/-- The management link: the frame, the 32 bits on the data output, and the selects of its windows. -/
structure Link where
  frame : FrameState
  sample : Word
  segmentIndex : Fin 64
  statSelect : Chan
  reportSelect : Chan
deriving DecidableEq, Repr

/-- The command in progress (R176). -/
inductive BusyCommand where
  | none
  | recover
  | format
  | softReset
deriving DecidableEq, Repr

/-- The command of the last result (R176). -/
inductive CommandName where
  | none
  | recover
  | format
  | start
  | stop
  | returnSegment
  | softReset
  | unknown
deriving DecidableEq, Repr

/-- How the last command ended (R176). -/
inductive CommandResult where
  | none
  | done
  | refused
  | failed
deriving DecidableEq, Repr

/-- The reason of the last result (R176). -/
inductive CommandReason where
  | none
  | unknownCommand
  | busy
  | geometryInvalid
  | frozen
  | recoveryState
  | writerState
  | notReady
  | channelsBusy
  | recordsInFlight
  | noGeometry
  | segmentRange
  | notHeld
  | readFault
  | noJournal
  | journalInconsistent
  | restoreFault
  | sequenceExhausted
  | rebaseFault
deriving DecidableEq, Repr

/-- The failed condition of a geometry check (R16). -/
inductive GeometryDetail where
  | none
  | baseAlign
  | sizeCode
  | segmentCount
  | areaRange
  | usableSegments
  | regionOverlap
deriving DecidableEq, Repr

/-- The last-result record (R176). -/
structure LastResult where
  command : CommandName
  result : CommandResult
  reason : CommandReason
  detail : GeometryDetail
  overlap : Fin 16
deriving DecidableEq, Repr

/-- The command slot (R176). -/
structure CommandSlot where
  busy : BusyCommand
  last : LastResult
deriving DecidableEq, Repr

/-- The events (R186). -/
inductive Event where
  | commitDone
  | abortDone
  | segmentHeld
  | recoveryDone
  | writerSuspended
  | writerHalted
  | holdExpired
  | epochTorn
  | copyFault
  | dataFault
  | rollbackFault
  | recoveryFailed
  | trackerOverflow
  | protocolError
  | configRefused
  | commandRefused
  | markerIgnored
  | pfailFrozen
deriving DecidableEq, Repr

/-- The event unit: 18 flags and 18 enables (R187, R189). -/
structure EventUnit where
  flags : BitVec 18
  enables : BitVec 18
deriving DecidableEq, Repr

/-- The power-fail monitor: the FROZEN indication and the level of PFAIL, true when asserted (R161, R162). -/
structure PowerMonitor where
  frozen : Bool
  pfail : Bool
deriving DecidableEq, Repr

/-! ### The part -/

/-- The whole part (00, Block Overview), and the time its deadlines are measured by. -/
structure Part where
  port : Port
  classifier : Classifier
  tracker : List TrackerEntry
  hold : HoldUnit
  slots : Vector (Option CopySlot) 4
  writer : Writer
  channels : Vector Channel 4
  restore : RestoreEngine
  arbiter : Arbiter
  link : Link
  command : CommandSlot
  events : EventUnit
  power : PowerMonitor
  now : Time
deriving DecidableEq, Repr

/-- The part and the commands that wait for it, first in first out. -/
structure State where
  part : Part
  pending : List Instr
deriving DecidableEq, Repr

/-- The reasons a step could stop with a fault: none. The manual names no condition that leaves the part without a next
state; what it calls faults are events, flags and results of the part, which State holds. -/
inductive Fault where
deriving DecidableEq, Repr

/-- The reasons a command could be turned away without a meaning. -/
inductive Refusal where
  /-- Raised by `exec` alone, for a row of the table that has no meaning yet; safe. No arm uses it. -/
  | notModelled (mnemonic : String)
deriving DecidableEq, Repr

/-! ### The state after reset -/

/-- A disabled region entry (R3). -/
def RegionEntry.cleared : RegionEntry :=
  { enabled := false, base := 0, limit := 0, cls := .pass, channel := 0 }

/-- Every journal geometry register 0 (R72). -/
def Geometry.cleared : Geometry :=
  { base := 0, sizeCode := 0, count := 0, identity := 0, exclude := 0 }

/-- The summary before the first epoch end after a reset (R42). -/
def Summary.cleared : Summary :=
  { epoch := 0, outcome := .none, journaledWrites := 0, saves := 0, trackerHits := 0, untrackedSaves := 0,
    holdExpiries := 0, torn := false, overflow := false, faulted := false }

/-- A channel with every item cleared (R19). R19 gives the last marker result's action alone; that its result and its reason
are NONE too is the model's choice (log 49). -/
def Channel.cleared : Channel :=
  { enabled := false, code := 0, state := .idle, exhausted := false, epoch := 0, resolved := 0, outstanding := 0,
    records := 0, torn := false, overflow := false, tornRecord := none, marker := none,
    last := { action := .none, result := .none, reason := .none }, journaledWrites := 0, trackerHits := 0,
    untrackedSaves := 0, holdExpiries := 0, summary := Summary.cleared, committed := 0, aborted := 0 }

/-- The hold unit with no entry and HOLD_LIMIT 0 (R69). -/
def HoldUnit.cleared : HoldUnit := { queue := [], limit := 0, lineTest := false, headRetry := false }

/-- The writer after a power-on or pin reset (R90, R105). -/
def Writer.cleared : Writer :=
  { state := .stopped, haltCause := .none, haltSegment := none, active := none, next := 0, frontier := 0,
    waiting := [], table := [], journal := [], retain := false }

/-- The rollback status after a reset (R112). -/
def RollbackStatus.cleared : RollbackStatus := { channel := none, restored := 0, skipped := 0, cursorSegment := none }

/-- A channel's part of the cleared tables (R131). -/
def ChannelScan.cleared : ChannelScan :=
  { headerBound := 0, highestSaved := none, highestTorn := none, lastEnd := none }

/-- A segment not yet read (R131). -/
def SegmentScan.notRead : SegmentScan :=
  { status := .notRead, first := 0, last := none, accepted := 0, ended := none, highest := Vector.replicate 4 none }

/-- The cleared recovery tables (R131). -/
def RecoveryTables.cleared : RecoveryTables :=
  { segments := [], channels := Vector.replicate 4 ChannelScan.cleared, validHeaders := 0, usedHeaders := 0,
    highestSeq := 0 }

/-- A channel's part of the cleared report (R132); resolved-through epoch 0 and torn found no are the model's choice (log 55). -/
def ChannelReport.cleared : ChannelReport :=
  { resolved := 0, openEpoch := none, tornFound := false, restored := 0, skipped := 0, epochsRestored := 0 }

/-- The cleared recovery report (R132), which names no failure reason: that it is NONE is the model's choice (log 55). -/
def Report.cleared : Report :=
  { kind := .none, outcome := .none, reason := .none, faultSegment := none, faultSeq := none, faultLine := none,
    secondSegment := none, newFirst := 0, channels := Vector.replicate 4 ChannelReport.cleared }

/-- The restore engine after any reset (R112, R128, R131, R132). -/
def RestoreEngine.cleared : RestoreEngine :=
  { abortQueue := [], rollback := none, status := RollbackStatus.cleared, recovery := .unrecovered,
    lastFailure := .none, stage := .idle, left := [], previous := Vector.replicate 4 none,
    tables := RecoveryTables.cleared, report := Report.cleared }

/-- The arbiter after a power-on or pin reset (R156, R159). -/
def Arbiter.cleared : Arbiter :=
  { waiting := [], issued := Vector.replicate 32 none, mode := .fair, lastTurn := .engine }

/-- PROTOCOL_STATUS after a reset (R149). -/
def ProtocolStatus.cleared : ProtocolStatus := { tag := 0, kind := .read, reason := .none }

/-- The last-result record after a power-on or pin reset (R176). -/
def LastResult.cleared : LastResult :=
  { command := .none, result := .none, reason := .none, detail := .none, overlap := 0 }

/-- The part after a power-on reset with PFAIL negated, no response sent yet, at time 0. -/
def Part.reset : Part :=
  { port := { tags := Vector.replicate 16 false, intake := [], protocol := ProtocolStatus.cleared, responses := [] },
    classifier := { regions := Vector.replicate 16 RegionEntry.cleared, regionIndex := 0,
                    geometry := Geometry.cleared, inForce := false, areaWrites := 0 },
    tracker := [],
    hold := HoldUnit.cleared,
    slots := Vector.replicate 4 none,
    writer := Writer.cleared,
    channels := Vector.replicate 4 Channel.cleared,
    restore := RestoreEngine.cleared,
    arbiter := Arbiter.cleared,
    link := { frame := .idle, sample := 0, segmentIndex := 0, statSelect := 0, reportSelect := 0 },
    command := { busy := .none, last := LastResult.cleared },
    events := { flags := 0, enables := 0 },
    power := { frozen := false, pfail := false },
    now := 0 }

/-- The machine right after reset: no command waits. -/
def State.reset : State := { part := Part.reset, pending := [] }

end Sys2Proof.Machine
end

