-- ==== Sys2Proof/Machine/Flags.lean ====
section
/-! DEFINITION. The event flags, their summaries and the IRQ pin (11), and the counters that stay at their highest
value. -/

namespace Sys2Proof.Machine

/-- The bit position of an event in the four event registers (R186). -/
def eventBit : Event → Nat
  | .commitDone => 0
  | .abortDone => 1
  | .segmentHeld => 2
  | .recoveryDone => 3
  | .writerSuspended => 4
  | .writerHalted => 5
  | .holdExpired => 6
  | .epochTorn => 7
  | .copyFault => 8
  | .dataFault => 9
  | .rollbackFault => 10
  | .recoveryFailed => 11
  | .trackerOverflow => 12
  | .protocolError => 13
  | .configRefused => 14
  | .commandRefused => 15
  | .markerIgnored => 16
  | .pfailFrozen => 17

/-- The word with only that event's bit set. -/
def eventMask (e : Event) : BitVec 18 := 1#18 <<< eventBit e

/-- A block reports an event: its flag is set (R187). -/
def raiseEvent (p : Part) (e : Event) : Part :=
  { p with events := { p.events with flags := p.events.flags ||| eventMask e } }

/-- Whether an event's flag is set (R187). -/
def eventSet (p : Part) (e : Event) : Bool := p.events.flags &&& eventMask e != 0#18

/-- The flags of the normal events, bits 0 to 3 (R189). -/
def normalEvents : BitVec 18 := 0xF#18

/-- NORMAL_SUMMARY: a flag of bits 0 to 3 is both set and enabled (R189). -/
def normalSummary (p : Part) : Bool := p.events.flags &&& p.events.enables &&& normalEvents != 0#18

/-- ABNORMAL_SUMMARY: a flag of bits 4 to 17 is both set and enabled (R189). -/
def abnormalSummary (p : Part) : Bool := p.events.flags &&& p.events.enables &&& ~~~normalEvents != 0#18

/-- IRQ is driven low while either summary is set (R190). -/
def irqLow (p : Part) : Bool := normalSummary p || abnormalSummary p

/-- A 32-bit counter that stays at 0xFFFF_FFFF once it reaches it (R6, R39, R41). -/
def countUp (w : Word) : Word := if w == 0xFFFFFFFF#32 then w else w + 1

end Sys2Proof.Machine
end

