-- ==== Sys2Proof/Machine/Operands.lean ====
section
/-! DEFINITION. How the part reads its operands: the lines a request covers and changes (R43), the page and region of an
address (R1, R7), the journal-area window and the geometry of the journal (R4, R70), the words of a marker (R25), and the
fields of a register (R175). -/

namespace Sys2Proof.Machine

/-! ### Fixed rows of things -/

/-- The item of a fixed row at an index. -/
def getAt {α : Type} {n : Nat} (v : Vector α n) (i : Fin n) : α := v[i.val]'i.isLt

/-- The row with one item replaced. -/
def setAt {α : Type} {n : Nat} (v : Vector α n) (i : Fin n) (x : α) : Vector α n := v.set i.val x i.isLt

/-- The four channels in ascending order. -/
def allChannels : List Chan := [0, 1, 2, 3]

/-! ### Lines and blocks (00, R43) -/

/-- The number of the line a byte address lies in. -/
def lineNumber (a : Nat) : Nat := a / 64

/-- The address of a line's first byte. -/
def lineAddr (n : Nat) : Addr := BitVec.ofNat 40 (64 * n)

/-- The number of the last line that `len` bytes from `a` cover (R43). A length of 0 covers the line of its address. -/
def lastLineNumber (a len : Nat) : Nat := lineNumber (a + (len - 1))

/-- Two runs of bytes share a line when some line is covered by both (R43). -/
def sharesLine (a la b lb : Nat) : Bool :=
  decide (lineNumber a ≤ lastLineNumber b lb) && decide (lineNumber b ≤ lastLineNumber a la)

/-- Two requests share a line (R43). -/
def requestsShare (r q : Request) : Bool := sharesLine r.addr.toNat r.len q.addr.toNat q.len

/-- A write changes a covered line when an enabled byte falls in it (R43). -/
def changesLine (r : Request) (n : Nat) : Bool :=
  r.kind == .write &&
    (List.range r.len).any fun k => r.enables.getD k false && lineNumber (r.addr.toNat + k) == n

/-- The covered lines of a request, in ascending address order, none of them looked up yet (R43, R51). -/
def coveredLines (r : Request) : List HoldLine :=
  let first := lineNumber r.addr.toNat
  (List.range (lastLineNumber r.addr.toNat r.len + 1 - first)).map fun k =>
    { line := lineAddr (first + k), changed := changesLine r (first + k), sub := .pending, untracked := false }

/-- The number of the 256-byte block a byte address lies in (00). -/
def blockNumber (a : Nat) : Nat := a / 256

/-- The runs that a transfer is presented as: one, or two where it crosses a block boundary (R154). -/
def blockPieces (a len : Nat) : List (Nat × Nat) :=
  if blockNumber a = blockNumber (a + (len - 1)) then [(a, len)]
  else [(a, 256 - a % 256), (a + (256 - a % 256), len - (256 - a % 256))]

/-! ### Geometry of the journal area (R4, R70, R71) -/

/-- The journal base as a byte address: the register holds bits 39:16 (R175). -/
def journalBase (g : Geometry) : Nat := g.base.toNat * 65536

/-- The segment size in bytes (R70). -/
def segmentSize (g : Geometry) : Nat := 4096 * 2 ^ g.sizeCode.toNat

/-- Slots per segment (R70). -/
def slotsPerSegment (g : Geometry) : Nat := 128 * 2 ^ g.sizeCode.toNat

/-- Where segment i begins (R70). -/
def segmentAddr (g : Geometry) (i : Nat) : Nat := journalBase g + i * segmentSize g

/-- Where slot j of segment i begins (R70). -/
def slotAddr (g : Geometry) (i j : Nat) : Nat := segmentAddr g i + 32 * j

/-- The first byte after the area. -/
def areaEnd (g : Geometry) : Nat := journalBase g + g.count.toNat * segmentSize g

/-- The four conditions of a well-formed area (R4). -/
def wellFormedArea (g : Geometry) : Bool :=
  decide (journalBase g % 65536 = 0) && decide (g.sizeCode.toNat ≤ 4) && decide (4 ≤ g.count.toNat) &&
    decide (g.count.toNat ≤ 64) && decide (areaEnd g ≤ 2 ^ 40)

/-- The address lies in the journal-area window; while the area is not well-formed the window is empty (R4). -/
def inWindow (g : Geometry) (a : Nat) : Bool :=
  wellFormedArea g && decide (journalBase g ≤ a) && decide (a < areaEnd g)

/-- Segment i is below N and not excluded (R71). -/
def usableSegment (g : Geometry) (i : Nat) : Bool := decide (i < g.count.toNat) && !g.exclude.getLsbD i

/-- The usable segments in ascending index order (R71). -/
def usableSegments (g : Geometry) : List Nat := (List.range g.count.toNat).filter (usableSegment g)

/-- The lowest usable segment (R71). -/
def lowestUsable (g : Geometry) : Nat := (usableSegments g).headD 0

/-! ### Regions (R1, R7) -/

/-- The page of an address (R1). -/
def pageOf (a : Addr) : Page := a.extractLsb' 12 28

/-- An enabled entry covers the pages from its base to its limit; none when the base is greater (R1). -/
def RegionEntry.covers (e : RegionEntry) (pg : Page) : Bool :=
  e.enabled && decide (e.base.toNat ≤ pg.toNat) && decide (pg.toNat ≤ e.limit.toNat)

/-- The region indexes in ascending order. -/
def allRegions : List (Fin 16) := [0, 1, 2, 3, 4, 5, 6, 7, 8, 9, 10, 11, 12, 13, 14, 15]

/-- The matching entry of a page: the lowest-index entry that is enabled and covers it (R7). -/
def lookupRegion (t : Vector RegionEntry 16) (pg : Page) : Option (Fin 16) :=
  allRegions.find? fun i => (getAt t i).covers pg

/-- STRICT, LENIENT and MARKER are the classes that recovery closes and the geometry check examines (R13, R16). -/
def RegionClass.isProtected : RegionClass → Bool
  | .strict | .lenient | .marker => true
  | .pass | .guarded => false

/-- An enabled entry overlaps the area when some page of it lies inside the window (R16). -/
def overlapsArea (g : Geometry) (e : RegionEntry) : Bool :=
  e.enabled && e.cls.isProtected && decide (e.base.toNat ≤ e.limit.toNat) &&
    decide (e.base.toNat * 4096 < areaEnd g) && decide (journalBase g < (e.limit.toNat + 1) * 4096)

/-! ### Words and bytes (R25, R73) -/

/-- The 32-bit word of four bytes, the least significant first (R73). -/
def wordOfBytes (b0 b1 b2 b3 : Byte) : Word := b3 ++ b2 ++ b1 ++ b0

/-- Word w of a run of bytes (R25, R73). A byte the run does not have counts as 0 (log 8). -/
def wordAt (bs : List Byte) (w : Nat) : Word :=
  wordOfBytes (bs.getD (4 * w) 0) (bs.getD (4 * w + 1) 0) (bs.getD (4 * w + 2) 0) (bs.getD (4 * w + 3) 0)

/-- The four bytes of a word, the least significant at the lowest address (R73). -/
def bytesOfWord (w : Word) : List Byte :=
  [w.extractLsb' 0 8, w.extractLsb' 8 8, w.extractLsb' 16 8, w.extractLsb' 24 8]

/-- A candidate is recognised as a marker: exactly 16 bytes at a multiple of 16, all enabled, and word 0 the channel's
code (R26). -/
def isMarker (r : Request) (code : Word) : Bool :=
  r.len == 16 && decide (r.addr.toNat % 16 = 0) && (r.enables.length == 16 && r.enables.all id) &&
    wordAt r.data 0 == code

/-- The action that word 1 of a marker asks for (R25). -/
def markerAction (r : Request) : MarkerAction :=
  if wordAt r.data 1 == 1#32 then .commit else if wordAt r.data 1 == 2#32 then .abort else .none

/-! ### Register fields (R175) -/

/-- The field of `len` bits from bit `lo` of a written value. -/
def field (v : Word) (lo len : Nat) : Nat := v.toNat / 2 ^ lo % 2 ^ len

/-- A field as an index below n, for a field exactly as wide as n needs. -/
def fieldFin (v : Word) (lo len n : Nat) (h : 0 < n) : Fin n := ⟨field v lo len % n, Nat.mod_lt _ h⟩

/-- Fields packed from bit 0 upward in the order listed, each of a width and a value (R175). -/
def packFields : List (Nat × Nat) → Nat
  | [] => 0
  | (width, value) :: rest => value % 2 ^ width + 2 ^ width * packFields rest

/-- The register that shows the packed fields. -/
def packed (fields : List (Nat × Nat)) : Word := BitVec.ofNat 32 (packFields fields)

/-- The class a code of REGION_CONTROL names, if any (R2, R175). -/
def classOfCode : Nat → Option RegionClass
  | 0 => some .pass
  | 1 => some .guarded
  | 2 => some .strict
  | 3 => some .lenient
  | 4 => some .marker
  | _ => none

/-- The code of a class: its position in R1's list (R175). -/
def codeOfClass : RegionClass → Nat
  | .pass => 0
  | .guarded => 1
  | .strict => 2
  | .lenient => 3
  | .marker => 4

end Sys2Proof.Machine
end

