-- ==== Sys2Proof/Machine/Journal.lean ====
section
/-! DEFINITION. The journal as it stands in memory (04): how the part writes record headers, UNDO records and segment
headers, how it reads them, and the tests by which it takes one for genuine. -/

namespace Sys2Proof.Machine

/-- The code of a record kind in word 0 (R74). -/
def kindCode : RecordKind → Nat
  | .undo => 1
  | .commit => 2
  | .abort => 3
  | .torn => 4
  | .pad => 5

/-- The kind a code names (R74, R86 condition 1). -/
def kindOfCode : Nat → Option RecordKind
  | 1 => some .undo
  | 2 => some .commit
  | 3 => some .abort
  | 4 => some .torn
  | 5 => some .pad
  | _ => none

/-- The wrapping sum of words (R73). -/
def sumWords : List Word → Word
  | [] => 0
  | w :: ws => w + sumWords ws

/-- The check word of what it covers: the complement of the wrapping sum (R73). -/
def checkWord (covered : List Word) : Word := ~~~ sumWords covered

/-! ### Record headers (R74, R79) -/

/-- Words 0 to 6 of a header slot. -/
def HeaderSlot.covered (h : HeaderSlot) : List Word := [h.w0, h.w1, h.w2, h.w3, h.w4, h.w5, h.w6]

/-- The 32 bytes of a header slot (R73). -/
def HeaderSlot.bytes (h : HeaderSlot) : List Byte :=
  ([h.w0, h.w1, h.w2, h.w3, h.w4, h.w5, h.w6, h.w7].map bytesOfWord).flatten

/-- The header slot that 32 bytes spell (R73). -/
def headerOfBytes (bs : List Byte) : HeaderSlot :=
  { w0 := wordAt bs 0, w1 := wordAt bs 1, w2 := wordAt bs 2, w3 := wordAt bs 3, w4 := wordAt bs 4, w5 := wordAt bs 5,
    w6 := wordAt bs 6, w7 := wordAt bs 7 }

/-- The kind field, if it names a kind (R74). -/
def HeaderSlot.kind (h : HeaderSlot) : Option RecordKind := kindOfCode (h.w0.extractLsb' 0 8).toNat

/-- The channel field (R74). -/
def HeaderSlot.channel (h : HeaderSlot) : Chan := (h.w0.extractLsb' 8 2).toFin

/-- The TORN, FAULT and OVERFLOWED flags (R74). -/
def HeaderSlot.tornFlag (h : HeaderSlot) : Bool := h.w0.getLsbD 12

/-- The FAULT flag (R74). -/
def HeaderSlot.faultFlag (h : HeaderSlot) : Bool := h.w0.getLsbD 13

/-- The OVERFLOWED flag (R74). -/
def HeaderSlot.overflowedFlag (h : HeaderSlot) : Bool := h.w0.getLsbD 14

/-- The length field (R74). -/
def HeaderSlot.lengthField (h : HeaderSlot) : Nat := (h.w0.extractLsb' 16 8).toNat

/-- The back-link (R74, R78). -/
def HeaderSlot.backLink (h : HeaderSlot) : Nat := (h.w0.extractLsb' 24 8).toNat

/-- The epoch field (R74). -/
def HeaderSlot.epoch (h : HeaderSlot) : Epoch := h.w1

/-- The 48-bit sequence number (R74). -/
def HeaderSlot.seq (h : HeaderSlot) : Seq := h.w2.toNat + 2 ^ 32 * (h.w3.extractLsb' 0 16).toNat

/-- The line address of an UNDO record (R74). -/
def HeaderSlot.line (h : HeaderSlot) : Addr := h.w5.extractLsb' 0 8 ++ h.w4

/-- Words 0 to 6 of the header of a record placed with this number, length field and back-link; the check word is still
to come (R74, R79). -/
def headerFields (r : PlaceReq) (seq : Seq) (lenField back : Nat) : HeaderSlot :=
  let countOrLine : Word × Word :=
    match r.kind with
    | .undo => (r.line.extractLsb' 0 32, (r.line.extractLsb' 32 8).zeroExtend 32)
    | .commit | .abort => (r.undoCount, 0)
    | .torn | .pad => (0, 0)
  { w0 := BitVec.ofNat 8 back ++ BitVec.ofNat 8 lenField ++ 0#1 ++ BitVec.ofBool r.overflowed ++ BitVec.ofBool r.fault ++
            BitVec.ofBool r.torn ++ 0#2 ++ BitVec.ofNat 2 r.channel.val ++ BitVec.ofNat 8 (kindCode r.kind),
    w1 := r.epoch,
    w2 := BitVec.ofNat 32 seq,
    w3 := r.region ++ BitVec.ofNat 16 (seq / 2 ^ 32),
    w4 := countOrLine.1,
    w5 := countOrLine.2,
    w6 := 0,
    w7 := 0 }

/-- The payload of a record as 16 words: an UNDO record's image; nothing for any other kind (R74). -/
def payloadWords (image : List Byte) : List Word := (List.range 16).map (wordAt image)

/-- The words that a record's check word covers: words 0 to 6, the payload of an UNDO record, and the journal identity
(R73). -/
def coveredWords (identity : Word) (h : HeaderSlot) (payload : List Word) : List Word :=
  h.covered ++ payload ++ [identity]

/-- The header slot of a placed record, with its check word (R73, R79). -/
def placedHeader (identity : Word) (r : PlaceReq) (seq : Seq) (lenField back : Nat) : HeaderSlot :=
  let h := headerFields r seq lenField back
  let payload := match r.kind with
    | .undo => payloadWords r.image
    | .commit | .abort | .torn | .pad => []
  { h with w7 := checkWord (coveredWords identity h payload) }

/-- The bytes a placed record's write carries: all three slots of an UNDO record, the header slot of any other
(R80 to R84, R99). -/
def recordBytes (identity : Word) (r : PlaceReq) (seq : Seq) (lenField back : Nat) : List Byte :=
  match r.kind with
  | .undo => (placedHeader identity r seq lenField back).bytes ++ r.image
  | .commit | .abort | .torn | .pad => (placedHeader identity r seq lenField back).bytes

/-- The slots a record of a kind takes; a PAD takes the rest of its segment (R74, R84). -/
def recordSlots (k : RecordKind) (rest : Nat) : Nat :=
  match k with
  | .undo => 3
  | .commit | .abort | .torn => 1
  | .pad => rest

/-- The length field of a record of a kind: a PAD of more than 255 slots has 0 (R84). -/
def lengthFieldOf (k : RecordKind) (rest : Nat) : Nat :=
  match k with
  | .undo => 3
  | .commit | .abort | .torn => 1
  | .pad => if rest ≤ 255 then rest else 0

/-! ### The test of a record (R86) -/

/-- Conditions 1, 2 and 3 for a header slot found at slot p of a segment of `slots` slots (R86). -/
def headerShape (h : HeaderSlot) (p slots : Nat) : Bool :=
  match h.kind with
  | none => false
  | some k => h.lengthField == lengthFieldOf k (slots - p) && decide (p + recordSlots k (slots - p) ≤ slots)

/-- Condition 5: the check word matches what it covers (R73, R86). -/
def checkMatches (identity : Word) (h : HeaderSlot) (payload : List Word) : Bool :=
  h.w7 == checkWord (coveredWords identity h payload)

/-- The test of R86 on a header slot and, for an UNDO record, the bytes of its image. -/
def recordValid (identity : Word) (h : HeaderSlot) (image : List Byte) (p slots : Nat) (expected : Seq) : Bool :=
  headerShape h p slots && h.seq == expected &&
    match h.kind with
    | some .undo => checkMatches identity h (payloadWords image)
    | some .commit | some .abort | some .torn | some .pad | none => checkMatches identity h []

/-! ### Segment headers (R74 to R77) -/

/-- Words 0 to 14 of a segment header (R74, R75). -/
def segmentHeaderFields (g : Geometry) (seg : Nat) (active : Bool) (first : Seq) (resolved : Vector Epoch 4) : List Word :=
  [Config.segmentMagic,
   g.identity,
   0#14 ++ BitVec.ofBool (!active) ++ BitVec.ofBool active ++ 0#5 ++ g.sizeCode ++ 0#2 ++ BitVec.ofNat 6 seg,
   BitVec.ofNat 32 first,
   (BitVec.ofNat 16 (first / 2 ^ 32)).zeroExtend 32,
   getAt resolved 0, getAt resolved 1, getAt resolved 2, getAt resolved 3,
   0, 0, 0, 0, 0, 0]

/-- The 64 bytes of a segment header (R73, R75): ACTIVE when `active`, else EMPTY. -/
def segmentHeaderBytes (g : Geometry) (seg : Nat) (active : Bool) (first : Seq) (resolved : Vector Epoch 4) : List Byte :=
  let ws := segmentHeaderFields g seg active first resolved
  ((ws ++ [checkWord ws]).map bytesOfWord).flatten

/-- A header read from segment i is valid (R77). -/
def segmentHeaderValid (g : Geometry) (i : Nat) (bs : List Byte) : Bool :=
  wordAt bs 0 == Config.segmentMagic && wordAt bs 1 == g.identity && (((wordAt bs 2).extractLsb' 0 6).toNat == i) &&
    wordAt bs 15 == checkWord ((List.range 15).map (wordAt bs))

/-- A valid header is a used header: ACTIVE is 1 and EMPTY is 0 (R76). -/
def segmentHeaderUsed (bs : List Byte) : Bool := (wordAt bs 2).getLsbD 16 && !(wordAt bs 2).getLsbD 17

/-- The first sequence number a header names (R74). -/
def segmentHeaderFirst (bs : List Byte) : Seq :=
  (wordAt bs 3).toNat + 2 ^ 32 * ((wordAt bs 4).extractLsb' 0 16).toNat

/-- The resolved-through epoch R_c a header carries (R74). -/
def segmentHeaderResolved (bs : List Byte) (c : Chan) : Epoch := wordAt bs (5 + c.val)

/-! ### Transfers in one or two pieces (R154) -/

/-- The pieces of a transfer of `len` bytes from `a`, none answered. -/
def freshPieces (a len : Nat) : List Piece := (blockPieces a len).map fun _ => Piece.waiting

/-- Every piece has been answered (R154). -/
def allAnswered (ps : List Piece) : Bool := ps.all fun q => q != .waiting

/-- Some piece was answered FAILED (R154). -/
def anyFailed (ps : List Piece) : Bool := ps.contains .failed

/-- The data of the pieces, in address order. -/
def gatheredData : List Piece → List Byte
  | [] => []
  | .done d :: ps => d ++ gatheredData ps
  | .waiting :: ps => gatheredData ps
  | .failed :: ps => gatheredData ps

/-- The piece that an answer makes. -/
def pieceOfAnswer : ReadAnswer → Piece
  | .done d => .done d
  | .failed => .failed

end Sys2Proof.Machine
end

