-- ==== Sys2Proof/Machine/Ops.lean ====
section
/-! DEFINITION. The named operations over the part that the meanings share: channels, upstream responses, the hand-over to
the downstream arbiter and its turns, the line tracker, the hold queue, and the markers in progress. -/

namespace Sys2Proof.Machine

/-! ### Channels (R18) -/

/-- What the epoch controller holds for a channel. -/
def chan (p : Part) (c : Chan) : Channel := getAt p.channels c

/-- The part with one channel changed. -/
def modChan (p : Part) (c : Chan) (f : Channel → Channel) : Part :=
  { p with channels := setAt p.channels c (f (chan p c)) }

/-- The channel is in ROLLING_BACK, in any substate (R18). -/
def ChannelState.isRollingBack : ChannelState → Bool
  | .rollingBack _ => true
  | .idle | .opened | .committing => false

/-- A soft reset's drain is in progress: SOFT_RESET is the busy command (R178). -/
def draining (p : Part) : Bool := p.command.busy == .softReset

/-- A channel in the mask of a segment (R93). -/
def maskBit (c : Chan) : BitVec 4 := 1#4 <<< c.val

/-! ### Upstream responses (R146) -/

/-- A response is sent: its tag stops being outstanding (R146). -/
def respond (p : Part) (t : Tag) (code : RespCode) (data : List Byte) : Part :=
  { p with port := { p.port with tags := setAt p.port.tags t false,
                                 responses := p.port.responses ++ [{ tag := t, code := code, data := data }] } }

/-- The tag is outstanding (R146). -/
def tagOutstanding (p : Part) (t : Tag) : Bool := getAt p.port.tags t

/-! ### The downstream arbiter (8.3, 8.4) -/

/-- Requests are handed to the arbiter, in order (R153). -/
def handOver (p : Part) (rs : List DownReq) : Part :=
  { p with arbiter := { p.arbiter with waiting := p.arbiter.waiting ++ rs } }

/-- An upstream request as the pass-through requester carries it (R151). -/
def passThrough (r : Request) (purpose : Purpose) : DownReq :=
  { purpose := purpose, kind := r.kind, addr := r.addr, len := r.len, enables := r.enables, data := r.data }

/-- A read of the part's own, by byte address. -/
def engineRead (purpose : Purpose) (a len : Nat) : DownReq :=
  { purpose := purpose, kind := .read, addr := BitVec.ofNat 40 a, len := len, enables := [], data := [] }

/-- A write of the part's own, every byte enabled (R99, R120). -/
def engineWrite (purpose : Purpose) (a : Nat) (bytes : List Byte) : DownReq :=
  { purpose := purpose, kind := .write, addr := BitVec.ofNat 40 a, len := bytes.length,
    enables := List.replicate bytes.length true, data := bytes }

/-- A write of the part's own as the one or two requests it is presented as (R154). -/
def writePieces (purpose : Purpose) (a : Nat) (bytes : List Byte) : List DownReq :=
  (blockPieces a bytes.length).map fun x => engineWrite purpose x.1 ((bytes.drop (x.1 - a)).take x.2)

/-- A read of the part's own as the one or two requests it is presented as, each with its place (R154). -/
def readPieces (purpose : Nat → Purpose) (a len : Nat) : List DownReq :=
  (blockPieces a len).mapIdx fun k x => engineRead (purpose k) x.1 x.2

/-- The requester that presents a request (8.4). -/
def Purpose.requester : Purpose → Requester
  | .plain _ | .direct _ _ | .held _ => .pt
  | .copy _ => .cr
  | .record _ | .header _ => .rw
  | .rollback _ | .recovery _ => .rs

/-- A pass-through read in the journal-area window: the kind of request that is not ordered against record writes
(R153). -/
def isJournalRead (g : Geometry) (r : DownReq) : Bool :=
  r.purpose.requester == .pt && r.kind == .read && inWindow g r.addr.toNat

/-- The earlier request keeps the later one waiting: they share a line and are not the excepted pair (R153). -/
def holdsBack (g : Geometry) (earlier later : DownReq) : Bool :=
  sharesLine earlier.addr.toNat earlier.len later.addr.toNat later.len &&
    !((isJournalRead g earlier && later.purpose.requester == .rw) ||
      (earlier.purpose.requester == .rw && isJournalRead g later))

/-- The head of a requester: its oldest waiting request, with its place in hand-over order (R153). -/
def headOf (waiting : List DownReq) (q : Requester) : Option (Nat × DownReq) :=
  match waiting.findIdx? (fun r => r.purpose.requester == q) with
  | none => none
  | some k => (waiting[k]?).map fun r => (k, r)

/-- The head of a requester when it is eligible: nothing handed over before it and still waiting keeps it (R153). -/
def eligibleHead (g : Geometry) (waiting : List DownReq) (q : Requester) : Option (Nat × DownReq) :=
  match headOf waiting q with
  | none => none
  | some (k, r) => if (waiting.take k).any (fun o => holdsBack g o r) then none else some (k, r)

/-- The engine group's choice: the first waiting requester in the order RW, CR, RS (R155). -/
def engineHead (g : Geometry) (waiting : List DownReq) : Option (Nat × DownReq) :=
  (eligibleHead g waiting .rw).or ((eligibleHead g waiting .cr).or (eligibleHead g waiting .rs))

/-- The mode that governs a turn: ENGINE_FIRST while frozen, else the field of CONFIG (R156, R168). -/
def modeInForce (p : Part) : ArbiterMode := if p.power.frozen then .engineFirst else p.arbiter.mode

/-- What a turn issues: the side, the place in hand-over order and the request; none when nothing is eligible (R155). -/
def turnChoice (p : Part) : Option (Side × Nat × DownReq) :=
  let w := p.arbiter.waiting
  let g := p.classifier.geometry
  match eligibleHead g w .pt, engineHead g w with
  | none, none => none
  | some x, none => some (.pt, x)
  | none, some y => some (.engine, y)
  | some x, some y =>
    match modeInForce p, p.arbiter.lastTurn with
    | .engineFirst, _ => some (.engine, y)
    | .fair, .pt => some (.engine, y)
    | .fair, .engine => some (.pt, x)

/-- The request that holds a downstream tag (R152). -/
def issuedAt (p : Part) (t : DTag) : Option DownReq := getAt p.arbiter.issued t

/-- An answer arrives: the tag returns to the pool (R152). -/
def freeTag (p : Part) (t : DTag) : Part :=
  { p with arbiter := { p.arbiter with issued := setAt p.arbiter.issued t none } }

/-! ### The line tracker (R46 to R50) -/

/-- The record number the tracker holds for a line of a channel: a hit carries one (R47). -/
def trackerLookup (tr : List TrackerEntry) (line : Addr) (c : Chan) : Option Seq :=
  match tr.find? (fun e => e.line == line && e.channel == c) with
  | none => none
  | some e => e.seq

/-- The entry of a line is removed (R50). -/
def untrackLine (p : Part) (line : Addr) : Part := { p with tracker := p.tracker.filter fun e => e.line != line }

/-- The record of a tracked line has been placed: its entry takes the number (R48). -/
def trackRecord (p : Part) (line : Addr) (n : Seq) : Part :=
  { p with tracker := p.tracker.map fun e => if e.line == line then { e with seq := some n } else e }

/-- Every entry of a channel is removed (R36 step 1). -/
def untrackChannel (p : Part) (c : Chan) : Part := { p with tracker := p.tracker.filter fun e => e.channel != c }

/-! ### The hold queue (3.3) -/

/-- The entry of an upstream tag (R51). -/
def holdEntry (p : Part) (t : Tag) : Option HoldEntry := p.hold.queue.find? fun e => e.req.tag == t

/-- The part with the entry of a tag changed. -/
def modHold (p : Part) (t : Tag) (f : HoldEntry → HoldEntry) : Part :=
  { p with hold := { p.hold with queue := p.hold.queue.map fun e => if e.req.tag == t then f e else e } }

/-- The entries older than the entry of a tag (3.3). -/
def olderThan (q : List HoldEntry) (t : Tag) : List HoldEntry := q.takeWhile fun e => e.req.tag != t

/-- The entry is a write. -/
def HoldEntry.isWrite (e : HoldEntry) : Bool := e.req.kind == .write

/-- Every older entry that shares a line with the entry is in FORWARDING or has left (R54, R67). -/
def olderCleared (q : List HoldEntry) (e : HoldEntry) : Bool :=
  (olderThan q e.req.tag).all fun o => !requestsShare o.req e.req || o.state == .forwarding

/-- A request shares a line with an entry of the queue (R44). -/
def sharesHeld (q : List HoldEntry) (r : Request) : Bool := q.any fun e => requestsShare e.req r

/-- A line's image is in the entry's buffer (R52). -/
def HoldLine.isHeld (l : HoldLine) : Bool :=
  match l.sub with
  | .held _ => true
  | .pending | .copying | .placed _ | .durable => false

/-- A changed line that needs a copy and has none (R52). -/
def HoldLine.isPending (l : HoldLine) : Bool := l.changed && l.sub == .pending

/-- A changed line is past its placement: PLACED or DURABLE (R52). -/
def HoldLine.isRecorded (l : HoldLine) : Bool :=
  match l.sub with
  | .placed _ | .durable => true
  | .pending | .copying | .held _ => false

/-- The HELD images of an entry are discarded and their lines' tracker entries removed (R50); the lines are PENDING. -/
def discardHeld (p : Part) (e : HoldEntry) : Part :=
  let q := (e.lines.filter HoldLine.isHeld).foldl (fun q l => untrackLine q l.line) p
  modHold q e.req.tag fun e => { e with lines := e.lines.map fun l => if l.isHeld then { l with sub := .pending } else l }

/-- The entry of a tag leaves the queue. Its copy reads in flight go on without an entry, and the tests of R54 and R56
are due. -/
def leaveHold (p : Part) (t : Tag) : Part :=
  { p with
    hold := { p.hold with queue := p.hold.queue.filter (fun e => e.req.tag != t), lineTest := true, headRetry := true },
    slots := p.slots.map fun s => s.map fun k => if k.owner == some t then { k with owner := none } else k }

/-- An entry that memory will not see is answered and leaves; its HELD images go (R58, R65, R102, R115, R164). -/
def dismiss (p : Part) (e : HoldEntry) (code : RespCode) : Part :=
  respond (leaveHold (discardHeld p e) e.req.tag) e.req.tag code []

/-! ### Markers in progress (R27, R38) -/

/-- The response code of a settled marker. -/
def RespCode.asResult : RespCode → MarkerResult
  | .done => .done
  | .refused => .refused
  | .failed => .failed

/-- The marker in progress becomes absent and its result is recorded. The action shown stays that of the last marker
recognised, as R27 recorded it (R38, log 47). -/
def settleMarker (p : Part) (c : Chan) (code : RespCode) (reason : MarkerReason) : Part :=
  modChan p c fun ch => { ch with marker := none, last := { ch.last with result := code.asResult, reason := reason } }

/-- The marker in progress is answered with its tag, the result is recorded, and it becomes absent; a channel without
one is left alone, so no marker is answered twice (R34, R38). -/
def answerMarker (p : Part) (c : Chan) (code : RespCode) (reason : MarkerReason) : Part :=
  match (chan p c).marker with
  | none => p
  | some m => respond (settleMarker p c code reason) m.tag code []

/-- The channel has a marker in progress. -/
def markerPresent (p : Part) (c : Chan) : Bool := (chan p c).marker.isSome

/-- A COMMIT marker is in progress whose record is not placed (R33, R34). -/
def commitUnplaced (p : Part) (c : Chan) : Bool :=
  match (chan p c).marker with
  | some m => m.action == .commit && m.record.isNone
  | none => false

/-- There is such a number, and the durable frontier is at or above it (R100). -/
def behindFrontier (p : Part) (n : Option Seq) : Bool := n.any fun k => decide (k ≤ p.writer.frontier)

/-- A COMMIT marker is in progress whose record is not behind the frontier: what a halt fails (R34, R102). One whose record
the frontier has passed completes under R32, however late in the same step (log 52). -/
def commitStranded (p : Part) (c : Chan) : Bool :=
  match (chan p c).marker with
  | some m => m.action == .commit && !behindFrontier p m.record
  | none => false

/-- The markers of the channels that a test picks are answered, in ascending order (log 11). -/
def answerMarkers (p : Part) (pick : Part → Chan → Bool) (code : RespCode) (reason : MarkerReason) : Part :=
  allChannels.foldl (fun q c => if pick q c then answerMarker q c code reason else q) p

/-- The markers of the channels in a list are answered, in that order. -/
def answerAll (p : Part) (cs : List Chan) (code : RespCode) (reason : MarkerReason) : Part :=
  cs.foldl (fun q c => answerMarker q c code reason) p

/-- The rollback being served can still end: its marker has not been answered (R124, R127). -/
def rollbackAlive (p : Part) : Bool :=
  match p.restore.rollback with
  | none => false
  | some x => markerPresent p x.channel

/-- The rollback has come to its end: its ABORT record is behind the frontier (R124), or its drain has settled behind the
frontier with nothing left in the journal (R117). -/
def rollbackDue (p : Part) (x : Rollback) : Bool :=
  behindFrontier p x.abortRecord ||
    (x.phase == .draining && behindFrontier p x.start && (chan p x.channel).records == 0 && !(chan p x.channel).torn)

/-- The channel of the rollback being served, when its marker is unanswered and its end has not come: what a halt strands
(R125, log 52). -/
def rollbackStranded (p : Part) : List Chan :=
  match p.restore.rollback with
  | none => []
  | some x => if markerPresent p x.channel && !rollbackDue p x then [x.channel] else []

/-- The channel of the rollback being served, when its marker is unanswered and its ABORT record not placed. -/
def rollbackUnplaced (p : Part) : List Chan :=
  match p.restore.rollback with
  | none => []
  | some x => if x.abortRecord.isNone then [x.channel] else []

/-- The part with the rollback context changed. -/
def modRollback (p : Part) (f : Rollback → Rollback) : Part :=
  { p with restore := { p.restore with rollback := p.restore.rollback.map f } }

/-- The channel's substate follows the work of the restore engine (R112). -/
def setSubstate (p : Part) (c : Chan) (sub : Substate) : Part :=
  modChan p c fun ch => { ch with state := .rollingBack sub }

/-- The drain of an abort withholds a COPYING entry of its epoch: no slot for it, and it is refused once its reads are
done (R116). -/
def withheld (p : Part) (e : HoldEntry) : Bool :=
  match p.restore.rollback with
  | none => false
  | some x => x.phase == .draining && e.isWrite && e.channel == x.channel && e.epoch == some x.epoch && e.state == .copying

end Sys2Proof.Machine
end

