-- ==== Sys2Proof/Machine/Writer.lean ====
section
/-! DEFINITION. The journal writer (05): the halt, placement and the opening of segments, the writing of records, the
durable frontier, and reclaim. -/

namespace Sys2Proof.Machine

/-! ### The halt (R98, R101, R102, R125) -/

/-- The cursor leaves the walk; outside RESTORING the status shows no cursor segment (R112, R122). -/
def clearCursor (p : Part) : Part :=
  let q := modRollback p fun x => { x with cursor := none }
  { q with restore := { q.restore with status := { q.restore.status with cursorSegment := none } } }

/-- The rollback being served goes to RECORDING, and so do the channels of the abort queue, for every rollback whose
marker is unanswered and whose end has not come (R125). A queued channel whose marker a soft reset's drain has answered REFUSED
stays QUEUED, in the queue, when the writer halts in that drain: R127 against R125's second bullet, the model's choice
(log 53). -/
def haltRollbacks (p : Part) : Part :=
  let served := rollbackStranded p
  let queued := p.restore.abortQueue.filter (markerPresent p)
  let p1 := (served ++ queued).foldl (fun q c => setSubstate q c .recording) p
  let p2 := { p1 with restore := { p1.restore with abortQueue := p1.restore.abortQueue.filter fun c => !queued.contains c } }
  let p3 := if served.isEmpty then p2 else
    clearCursor (modRollback p2 fun x => { x with phase := .recording })
  answerAll p3 (served ++ queued) .failed .writerHalted

/-- The write entries of the hold queue that are not in FORWARDING are answered REFUSED, in queue order (R102). -/
def refuseUnforwarded (p : Part) : Part :=
  (p.hold.queue.filter fun e => e.isWrite && e.state != .forwarding).foldl (fun q e => dismiss q e .refused) p

/-- The writer becomes HALTED, with every effect of R102 and R125 (R98, R101). What the frontier has passed by then is
behind it: a commit or an abort whose end has come ends after it as it would have before (R32, R124, log 52). -/
def haltWriter (p : Part) (cause : HaltCause) (seg : Nat) : Part :=
  let p1 := raiseEvent p .writerHalted
  let p2 := { p1 with writer := { p1.writer with state := .halted, haltCause := cause, haltSegment := some seg, waiting := [] } }
  let p3 := answerMarkers p2 commitStranded .failed .writerHalted
  let p4 := refuseUnforwarded (haltRollbacks p3)
  { p4 with tracker := [] }

/-! ### Writing (R99) -/

/-- The write of a record placed in the segment must wait: the segment's header is not yet answered DONE (R99). -/
def headerPending (j : List JournalWrite) (seg : Nat) : Bool :=
  j.any fun w => w.isHeader && w.seg == seg && (w.failed || w.unanswered != 0)

/-- The requests that write a record (R88, R99). -/
def recordRequests (w : JournalWrite) : List DownReq := writePieces (.record w.seq) w.addr.toNat w.bytes

/-- The placed records of a segment that wait for its header are presented, in placement order (R99). -/
def presentHeld (p : Part) (seg : Nat) : Part :=
  let due := fun (w : JournalWrite) => !w.isHeader && w.seg == seg && !w.presented
  let p1 := handOver p ((p.writer.journal.filter due).map recordRequests).flatten
  let j := p1.writer.journal.map fun w => if due w then { w with presented := true } else w
  { p1 with writer := { p1.writer with journal := j } }

/-! ### Placement (R94) -/

/-- The ACTIVE segment and its entry (R92). -/
def activeEntry (w : Writer) : Option (Nat × SegEntry) :=
  match w.active with
  | none => none
  | some i => (w.table[i]?).map fun e => (i, e)

/-- The FREE segments (R183). -/
def freeCount (w : Writer) : Nat := w.table.countP fun e => e.state == .free

/-- The slots free in a segment (R94). -/
def slotsFree (g : Geometry) (e : SegEntry) : Nat := slotsPerSegment g - e.used

/-- A record of the kind is placed in the ACTIVE segment: the table's second column (R94). -/
def fitsActive (g : Geometry) (w : Writer) (k : RecordKind) : Bool :=
  match activeEntry w with
  | none => false
  | some (_, e) =>
    match k with
    | .undo => decide (3 ≤ slotsFree g e) && (freeCount w != 0 || decide (3 + Config.reserveSlots ≤ slotsFree g e))
    | .commit | .abort => decide (1 ≤ slotsFree g e)
    | .torn => decide (1 ≤ slotsFree g e) && (freeCount w != 0 || decide (1 + Config.reserveSlots ≤ slotsFree g e))
    | .pad => false

/-- A record of the kind may open a segment: the table's third column (R94). -/
def mayOpen (w : Writer) (k : RecordKind) : Bool :=
  match k with
  | .undo => decide (2 ≤ freeCount w)
  | .commit | .abort | .torn => decide (1 ≤ freeCount w)
  | .pad => false

/-- The row of the kind allows a placement (R94, R103). -/
def rowAllows (p : Part) (k : RecordKind) : Bool :=
  (activeEntry p.writer).isSome && (fitsActive p.classifier.geometry p.writer k || mayOpen p.writer k)

/-- The rows are tested for the kind: while RUNNING, and for control records while SUSPENDED; never in a soft reset's
drain (R94, R110). -/
def accepts (p : Part) (k : RecordKind) : Bool :=
  !draining p && (p.writer.state == .running || (p.writer.state == .suspended && k != .undo))

/-- The record is placed at the first free slot of segment i, with the next sequence number (R79, R93, R94), and its
write is presented unless the segment's header holds it back (R99). -/
def putRecord (p : Part) (i : Nat) (e : SegEntry) (r : PlaceReq) : Part :=
  let g := p.classifier.geometry
  let n := p.writer.next
  let rest := slotsFree g e
  let lenField := lengthFieldOf r.kind rest
  let bytes := recordBytes g.identity r n lenField e.lastLen
  let opens := match r.kind with
    | .undo | .torn => maskBit r.channel
    | .commit | .abort | .pad => 0
  let e' := { e with used := e.used + recordSlots r.kind rest, lastLen := lenField, mask := e.mask ||| opens }
  let ready := !headerPending p.writer.journal i
  let w : JournalWrite :=
    { isHeader := false, seq := n, seg := i, addr := BitVec.ofNat 40 (slotAddr g i e.used), bytes := bytes,
      presented := ready, unanswered := (blockPieces (slotAddr g i e.used) bytes.length).length, failed := false }
  let p1 := { p with writer := { p.writer with next := n + 1, table := p.writer.table.set i e',
                                               journal := p.writer.journal ++ [w] } }
  if ready then handOver p1 (recordRequests w) else p1

/-- A reclaimed segment becomes FREE, or HELD while RETAIN is set (R104). -/
def reclaim (p : Part) (i : Nat) : Part :=
  let kept : SegState := if p.writer.retain then .held else .free
  let p1 := { p with writer := { p.writer with table := p.writer.table.modify i fun e => { e with state := kept } } }
  if p.writer.retain then raiseEvent p1 .segmentHeld else p1

/-- The segment of an index is CLOSED with an empty mask (R104). -/
def reclaimable (w : Writer) (i : Nat) : Bool := (w.table[i]?).any fun e => e.state == .closed && e.mask == 0

/-- The segment becomes CLOSED, and is reclaimed at once when its mask is empty (R97 step 2). -/
def closeSegment (p : Part) (i : Nat) : Part :=
  let p1 := { p with writer := { p.writer with table := p.writer.table.modify i fun e => { e with state := .closed } } }
  if reclaimable p1.writer i then reclaim p1 i else p1

/-- The first FREE segment from an index on, in circular order (R97 step 3). -/
def findFree (table : List SegEntry) (start : Nat) : Option Nat :=
  ((List.range table.length).map fun k => (start + k) % table.length).find? fun j =>
    (table[j]?).any fun e => e.state == .free

/-- What the PAD of R97 step 1 asks for (R84). -/
def padRequest : PlaceReq :=
  { kind := .pad, channel := 0, epoch := 0, torn := false, fault := false, overflowed := false, line := 0,
    region := 0xFFFF, image := [], undoCount := 0 }

/-- Each channel's resolved-through epoch as the epoch controller holds it (R75). -/
def resolvedEpochs (p : Part) : Vector Epoch 4 := p.channels.map fun ch => ch.resolved

/-- Segment j becomes ACTIVE and its header is written (R97 steps 3 to 5). -/
def activate (p : Part) (j : Nat) : Part :=
  let g := p.classifier.geometry
  let bytes := segmentHeaderBytes g j true p.writer.next (resolvedEpochs p)
  let e : SegEntry := { state := .active, first := p.writer.next, used := Config.headerSlots, lastLen := 0, mask := 0 }
  let w : JournalWrite :=
    { isHeader := true, seq := p.writer.next, seg := j, addr := BitVec.ofNat 40 (segmentAddr g j), bytes := bytes,
      presented := true, unanswered := 1, failed := false }
  handOver { p with writer := { p.writer with active := some j, table := p.writer.table.set j e,
                                              journal := p.writer.journal ++ [w] } }
    [engineWrite (.header j) (segmentAddr g j) bytes]

/-- Steps 1 to 5 of R97: PAD, closing, search, the new entry and its header. -/
def openSegment (p : Part) (i : Nat) (e : SegEntry) : Part :=
  let p1 := if slotsFree p.classifier.geometry e = 0 then p else putRecord p i e padRequest
  let p2 := closeSegment p1 i
  match findFree p2.writer.table (i + 1) with
  | none => p2
  | some j => activate p2 j

/-- A placement request: the part after it, and the record's number when it is placed (R94, R97, R98). A placement that
would give a number beyond the last halts the writer instead. -/
def place (p : Part) (r : PlaceReq) : Part × Option Seq :=
  if accepts p r.kind then
    match activeEntry p.writer with
    | none => (p, none)
    | some (i, e) =>
      if fitsActive p.classifier.geometry p.writer r.kind then
        if p.writer.next ≤ Config.maxSeq then (putRecord p i e r, some p.writer.next)
        else (haltWriter p .sequenceExhausted i, none)
      else if mayOpen p.writer r.kind then
        let pads := if slotsFree p.classifier.geometry e = 0 then 0 else 1
        if p.writer.next + pads ≤ Config.maxSeq then
          let p1 := openSegment p i e
          match activeEntry p1.writer with
          | none => (p1, none)
          | some (j, f) => (putRecord p1 j f r, some p1.writer.next)
        else (haltWriter p .sequenceExhausted i, none)
      else (p, none)
  else (p, none)

/-- An UNDO placement: a refusal while RUNNING suspends the writer (R95). -/
def placeUndo (p : Part) (r : PlaceReq) : Part × Option Seq :=
  let x := place p r
  if x.2.isNone && x.1.writer.state == .running && !draining x.1 then
    (raiseEvent { x.1 with writer := { x.1.writer with state := .suspended } } .writerSuspended, none)
  else x

/-! ### Reclaim (R104) -/

/-- The channel leaves the mask of every segment (R36 step 2, R93). -/
def clearMasks (p : Part) (c : Chan) : Part :=
  { p with writer := { p.writer with table := p.writer.table.map fun e => { e with mask := e.mask &&& ~~~ maskBit c } } }

/-- The reclaim sweep, in ascending index order (R104). -/
def sweep (p : Part) : Part :=
  (List.range p.writer.table.length).foldl (fun q i => if reclaimable q.writer i then reclaim q i else q) p

/-! ### The durable frontier (R100) -/

/-- Every write of a record or header has been answered DONE (R100). -/
def JournalWrite.isDone (w : JournalWrite) : Bool := w.presented && w.unanswered == 0 && !w.failed

/-- The frontier rises past the unbroken run of done writes, a header counting as if it stood just before its segment's
first record (R100): the new frontier and what stays above it. -/
def popDone : Seq → List JournalWrite → Seq × List JournalWrite
  | f, [] => (f, [])
  | f, w :: ws => if w.isDone then popDone (if w.isHeader then f else w.seq) ws else (f, w :: ws)

/-- A line passed by the frontier goes to DURABLE (R67). -/
def HoldLine.passed (f : Seq) (l : HoldLine) : HoldLine :=
  match l.sub with
  | .placed n => if n ≤ f then { l with sub := .durable } else l
  | .pending | .copying | .held _ | .durable => l

/-- The reports of a frontier: lines passed by it go to DURABLE (R67), and a TORN record passed by it sets its channel's
torn flag (R24, R59). -/
def noteFrontier (p : Part) : Part :=
  let f := p.writer.frontier
  { p with
    hold := { p.hold with queue := p.hold.queue.map fun e => { e with lines := e.lines.map (HoldLine.passed f) } },
    channels := p.channels.map fun ch =>
      match ch.tornRecord with
      | some n => if n ≤ f then { ch with torn := true } else ch
      | none => ch }

/-- The frontier is raised as far as the answers allow, and reported (R100). -/
def raiseFrontier (p : Part) : Part :=
  let x := popDone p.writer.frontier p.writer.journal
  noteFrontier { p with writer := { p.writer with frontier := x.1, journal := x.2 } }

/-- The journal write that an answer is for. -/
def isFor (purpose : Purpose) (w : JournalWrite) : Bool :=
  match purpose with
  | .record n => !w.isHeader && w.seq == n
  | .header i => w.isHeader && w.seg == i
  | .plain _ | .direct _ _ | .held _ | .copy _ | .rollback _ | .recovery _ => false

/-- The journal write of an answer, changed. -/
def modJournal (p : Part) (purpose : Purpose) (f : JournalWrite → JournalWrite) : Part :=
  { p with writer := { p.writer with journal := p.writer.journal.map fun w => if isFor purpose w then f w else w } }

/-- A record or header write is answered DONE (R99, R100). -/
def journalWriteDone (p : Part) (purpose : Purpose) : Part :=
  let p1 := modJournal p purpose fun w => { w with unanswered := w.unanswered - 1 }
  let p2 := match purpose with
    | .header i => presentHeld p1 i
    | .record _ | .plain _ | .direct _ _ | .held _ | .copy _ | .rollback _ | .recovery _ => p1
  raiseFrontier p2

/-- The segment that a record or header write is addressed to. -/
def journalSegment (p : Part) (purpose : Purpose) : Nat :=
  match p.writer.journal.find? (isFor purpose) with
  | some w => w.seg
  | none => 0

/-- A record or header write is answered FAILED: the writer halts when it is RUNNING, SUSPENDED or FROZEN (R101). -/
def journalWriteFailed (p : Part) (purpose : Purpose) : Part :=
  let p1 := modJournal p purpose fun w => { w with failed := true }
  match p.writer.state with
  | .running | .suspended | .frozen => haltWriter p1 .recordWriteFault (journalSegment p purpose)
  | .stopped | .halted => p1

/-! ### The segment table (R90) -/

/-- The table when the geometry comes into force: EXCLUDED and FREE entries (R90). -/
def builtTable (g : Geometry) : List SegEntry :=
  (List.range g.count.toNat).map fun i =>
    { state := if usableSegment g i then .free else .excluded, first := 0, used := 0, lastLen := 0, mask := 0 }

/-- The table when the writer goes into service: the lowest usable segment ACTIVE (R91). -/
def servedTable (g : Geometry) (first : Seq) : List SegEntry :=
  (builtTable g).set (lowestUsable g)
    { state := .active, first := first, used := Config.headerSlots, lastLen := 0, mask := 0 }

/-- The writer goes into service with a header that names f (R91). -/
def goIntoService (p : Part) (f : Seq) : Part :=
  let g := p.classifier.geometry
  { p with writer := { p.writer with state := .running, haltCause := .none, active := some (lowestUsable g),
                                     table := servedTable g f, next := f, frontier := f - 1 } }

end Sys2Proof.Machine
end

