-- ==== Sys2Proof/Machine/Hold.lean ====
section
/-! DEFINITION. The write hold unit and the copy engine (03): taking a request, the lookup, release, forwarding, expiry and
the torn path, and the copies. -/

namespace Sys2Proof.Machine

/-! ### Counters -/

/-- A 32-bit counter increased by a number of events, staying at 0xFFFF_FFFF (R39). -/
def countBy (n : Nat) (w : Word) : Word :=
  if 0xFFFFFFFF ≤ w.toNat + n then 0xFFFFFFFF#32 else w + BitVec.ofNat 32 n

/-- A journaled write is taken into the channel's current epoch (R39). -/
def countJournaled (p : Part) (c : Chan) : Part :=
  modChan p c fun ch => { ch with journaledWrites := countUp ch.journaledWrites }

/-- A journaled write of the channel is handed to the arbiter (R23). -/
def countOutstanding (p : Part) (c : Chan) : Part := modChan p c fun ch => { ch with outstanding := ch.outstanding + 1 }

/-- Memory has answered a journaled write of the channel (R23). -/
def uncountOutstanding (p : Part) (c : Chan) : Part := modChan p c fun ch => { ch with outstanding := ch.outstanding - 1 }

/-! ### Lookup (R47) -/

/-- A line as the lookup leaves it: a changed line is DURABLE, PLACED or PENDING (R47). -/
def lookedUp (p : Part) (c : Chan) (l : HoldLine) : HoldLine :=
  if l.changed then
    match trackerLookup p.tracker l.line c with
    | none => { l with sub := .pending }
    | some n => if n ≤ p.writer.frontier then { l with sub := .durable } else { l with sub := .placed n }
  else l

/-- Each changed line found adds one to the channel's tracker hits (R45, R47). -/
def countHits (p : Part) (c : Chan) (ls : List HoldLine) : Part :=
  let n := ls.countP fun l => l.changed && (trackerLookup p.tracker l.line c).isSome
  modChan p c fun ch => { ch with trackerHits := countBy n ch.trackerHits }

/-- Every line the write changes is DURABLE (R45, R67). -/
def allDurable (ls : List HoldLine) : Bool := ls.all fun l => !l.changed || l.sub == .durable

/-- The state of a write entry whose lines have been looked up (R53). -/
def lookedUpState (ls : List HoldLine) : EntryState := if ls.any HoldLine.isPending then .waitCopy else .recording

/-! ### Forwarding (R54, R67) -/

/-- The entry is handed to the arbiter as one pass-through request and goes to FORWARDING; a write stands in its
channel's outstanding count from now on (R54, R67). -/
def forward (p : Part) (e : HoldEntry) : Part :=
  let p1 := modHold p e.req.tag fun x => { x with state := .forwarding }
  let p2 := handOver { p1 with hold := { p1.hold with lineTest := true } } [passThrough e.req (.held e.req.tag)]
  if e.isWrite then countOutstanding p2 e.channel else p2

/-- A write entry is forwardable (R67). -/
def forwardable (p : Part) (e : HoldEntry) : Bool :=
  e.isWrite && e.state == .recording && !e.failed && olderCleared p.hold.queue e &&
    (allDurable e.lines || (e.torn && (chan p e.channel).torn))

/-! ### Expiry and the torn path (R57 to R59) -/

/-- The states in which a deadline is examined (R57). -/
def EntryState.isWaiting : EntryState → Bool
  | .waitEpoch | .waitLine | .waitCopy | .waitSpace => true
  | .copying | .recording | .forwarding => false

/-- The states from which a LENIENT write takes the torn path (R58). -/
def EntryState.isTornWait : EntryState → Bool
  | .waitLine | .waitCopy | .waitSpace => true
  | .waitEpoch | .copying | .recording | .forwarding => false

/-- The TORN record of an entry's channel and epoch (R59, R83). -/
def tornRequest (e : HoldEntry) : PlaceReq :=
  { kind := .torn, channel := e.channel, epoch := e.epoch.getD 0, torn := false, fault := false, overflowed := false,
    line := 0, region := 0xFFFF, image := [], undoCount := 0 }

/-- The entry is given the torn-path mark: it goes to RECORDING and its HELD images are discarded (R59). -/
def markTorn (p : Part) (e : HoldEntry) : Part :=
  modHold (discardHeld p e) e.req.tag fun x => { x with state := .recording, torn := true }

/-- The torn path (R59). -/
def tornPath (p : Part) (e : HoldEntry) : Part :=
  if (chan p e.channel).torn || (chan p e.channel).tornRecord.isSome then markTorn p e
  else
    match place p (tornRequest e) with
    | (p1, some n) => markTorn (modChan p1 e.channel fun ch => { ch with tornRecord := some n }) e
    | (p1, none) =>
      match holdEntry p1 e.req.tag with
      | some x => dismiss p1 x .refused
      | none => p1

/-- The entry expires (R58). -/
def expire (p : Part) (e : HoldEntry) : Part :=
  let p1 := modChan (raiseEvent p .holdExpired) e.channel fun ch => { ch with holdExpiries := countUp ch.holdExpiries }
  if e.isWrite && e.cls == .lenient && e.state.isTornWait then tornPath p1 e else dismiss p1 e .refused

/-- The entry of a tag, should it have entered a waiting state after its deadline, expires as it enters (R57). -/
def expireLate (p : Part) (t : Tag) : Part :=
  match holdEntry p t with
  | none => p
  | some e =>
    match e.deadline with
    | none => p
    | some d => if e.state.isWaiting && decide (d < p.now) then expire p e else p

/-! ### Taking a request (R44, R45, R53) -/

/-- The deadline of an entry that joins now (R53). -/
def joinDeadline (p : Part) : Option Time :=
  if p.hold.limit == 0 then none else some (p.now + p.hold.limit.toNat * Config.holdUnit)

/-- An entry for a request, as it joins (R51, R53). -/
def newEntry (p : Part) (r : Request) (k : Classification) (epoch : Option Epoch) (st : EntryState) (ls : List HoldLine) :
    HoldEntry :=
  { req := r, lines := ls, cls := k.cls, channel := k.channel, region := k.region, epoch := epoch, state := st,
    deadline := joinDeadline p, failed := false, torn := false }

/-- The entry joins at the end of queue order; none when all 8 are in use (R51, R53, R56). -/
def joinHold (p : Part) (e : HoldEntry) : Option Part :=
  if p.hold.queue.length < Config.holdDepth then
    some { p with hold := { p.hold with queue := p.hold.queue ++ [e] } }
  else none

/-- A read is taken (R44). One that joins in WAIT_LINE has no epoch (log 43). -/
def takeRead (p : Part) (r : Request) (k : Classification) : Option Part :=
  if (chan p k.channel).state.isRollingBack then joinHold p (newEntry p r k none .waitEpoch (coveredLines r))
  else if sharesHeld p.hold.queue r then joinHold p (newEntry p r k none .waitLine (coveredLines r))
  else some (handOver p [passThrough r (.plain r.tag)])

/-- A write of an OPEN channel is taken: WAIT_LINE, a direct write, or an entry whose lines are looked up (R44, R45). A head
write taken again goes the same paths, a direct write included (R56, log 42). -/
def takeOpenWrite (p : Part) (r : Request) (k : Classification) : Option Part :=
  let epoch := (chan p k.channel).epoch
  if sharesHeld p.hold.queue r then joinHold p (newEntry p r k (some epoch) .waitLine (coveredLines r))
  else
    let ls := (coveredLines r).map (lookedUp p k.channel)
    let p1 := countHits p k.channel (coveredLines r)
    if allDurable ls then some (countOutstanding (handOver p1 [passThrough r (.direct r.tag k.channel)]) k.channel)
    else joinHold p1 (newEntry p r k (some epoch) (lookedUpState ls) ls)

/-- A write is taken (R44): refused while HALTED or frozen (R102, R166) and, for a head taken again, when its channel is
IDLE (R56). -/
def takeWrite (p : Part) (r : Request) (k : Classification) : Option Part :=
  if p.writer.state == .halted || p.power.frozen then some (respond p r.tag .refused [])
  else
    match (chan p k.channel).state with
    | .idle => some (respond p r.tag .refused [])
    | .committing | .rollingBack _ => joinHold p (newEntry p r k none .waitEpoch (coveredLines r))
    | .opened => takeOpenWrite (if k.counted then p else countJournaled p k.channel) r k

/-- The hold unit takes a request: the part after it, or none when it needs an entry and all 8 are in use (R44, R56). -/
def holdTake (p : Part) (r : Request) (k : Classification) : Option Part :=
  match r.kind with
  | .read => takeRead p r k
  | .write => takeWrite p r k

/-! ### Leaving WAIT_LINE and WAIT_EPOCH (R54, R55) -/

/-- The entry proceeds as one leaving WAIT_LINE: a read is handed on, a write has its lines looked up (R54). -/
def proceed (p : Part) (e : HoldEntry) : Part :=
  if e.isWrite then
    let ls := e.lines.map (lookedUp p e.channel)
    let p1 := modHold (countHits p e.channel e.lines) e.req.tag fun x =>
      { x with lines := ls, state := lookedUpState ls }
    if allDurable ls then forward p1 e else expireLate p1 e.req.tag
  else forward p e

/-- The entry of a tag is released from WAIT_EPOCH into its channel's epoch, or refused where R37 has left the channel
IDLE (R36 step 6, R55). -/
def releaseOne (p : Part) (t : Tag) : Part :=
  match holdEntry p t with
  | none => p
  | some e =>
    let ch := chan p e.channel
    if e.isWrite && ch.state == .idle then dismiss p e .refused
    else
      let epoch := if ch.state == .idle then none else some ch.epoch
      let p1 := if e.isWrite then countJournaled p e.channel else p
      if (olderThan p1.hold.queue t).any (fun o => requestsShare o.req e.req) then
        expireLate (modHold p1 t fun x => { x with epoch := epoch, state := .waitLine }) t
      else proceed (modHold p1 t fun x => { x with epoch := epoch }) { e with epoch := epoch }

/-- The WAIT_EPOCH entries of a channel are released, in queue order (R55). -/
def releaseEpoch (p : Part) (c : Chan) : Part :=
  ((p.hold.queue.filter fun e => e.state == .waitEpoch && e.channel == c).map fun e => e.req.tag).foldl releaseOne p

/-! ### Copies (R60 to R65) -/

/-- The slot indexes in ascending order. -/
def allSlots : List (Fin 4) := [0, 1, 2, 3]

/-- A line of an entry, changed. -/
def modLine (p : Part) (t : Tag) (line : Addr) (f : HoldLine → HoldLine) : Part :=
  modHold p t fun e => { e with lines := e.lines.map fun l => if l.line == line then f l else l }

/-- An entry that a free slot may be assigned to (R60, R116). -/
def copyEligible (p : Part) (e : HoldEntry) : Bool :=
  e.isWrite && (e.state == .waitCopy || e.state == .copying) && !e.failed && !withheld p e &&
    e.lines.any HoldLine.isPending

/-- The slot is assigned to the line: the tracker inserts it, or is full; the copy read is handed over (R48, R60, R61). -/
def startCopy (p : Part) (k : Fin 4) (e : HoldEntry) (l : HoldLine) : Part :=
  let room := decide (p.tracker.length < Config.trackerDepth)
  let p1 := if room then { p with tracker := p.tracker ++ [{ line := l.line, channel := e.channel, seq := none }] }
    else raiseEvent (modChan p e.channel fun ch => { ch with overflow := true }) .trackerOverflow
  let p2 := modHold p1 e.req.tag fun x => { x with state := .copying }
  let p3 := modLine p2 e.req.tag l.line fun x => { x with sub := .copying, untracked := !room }
  handOver { p3 with slots := setAt p3.slots k (some { line := l.line, channel := e.channel, owner := some e.req.tag }) }
    [engineRead (.copy k) l.line.toNat 64]

/-- A free slot is assigned to the lowest PENDING line of the oldest eligible entry, while the writer is RUNNING
(R60). R60 does not say which of several free slots: the model takes the lowest-numbered one (DESIGN CHOICE, log 57). -/
def assignSlot (p : Part) : Option Part :=
  if p.writer.state == .running && !draining p then
    match allSlots.find? (fun k => (getAt p.slots k).isNone), p.hold.queue.find? (copyEligible p) with
    | some k, some e => (e.lines.find? HoldLine.isPending).map (startCopy p k e)
    | _, _ => none
  else none

/-- The UNDO record of a line of an entry (R62, R80). -/
def undoRequest (e : HoldEntry) (line : Addr) (image : List Byte) : PlaceReq :=
  { kind := .undo, channel := e.channel, epoch := e.epoch.getD 0, torn := false, fault := false, overflowed := false,
    line := line, region := BitVec.ofNat 16 e.region.val, image := image, undoCount := 0 }

/-- The line's UNDO record has been placed with a number (R48, R62, R39). -/
def lineRecorded (p : Part) (e : HoldEntry) (line : Addr) (n : Seq) : Part :=
  let loose := e.lines.any fun l => l.line == line && l.untracked
  let p1 := modLine p e.req.tag line fun l => { l with sub := if n ≤ p.writer.frontier then .durable else .placed n }
  let p2 := if loose then p1 else trackRecord p1 line n
  modChan p2 e.channel fun ch =>
    { ch with records := countUp ch.records,
              untrackedSaves := if loose then countUp ch.untrackedSaves else ch.untrackedSaves }

/-- An image of a line is offered to the writer: the line is PLACED, or HELD, or the image is discarded where the entry
has failed or an abort's drain withholds it, and the line is then PENDING (R62, R63, R65, R116, log 45). -/
def offerImage (p : Part) (t : Tag) (line : Addr) (image : List Byte) : Part :=
  match holdEntry p t with
  | none => p
  | some e =>
    match placeUndo p (undoRequest e line image) with
    | (p1, some n) => lineRecorded p1 e line n
    | (p1, none) =>
      if e.failed || withheld p1 e then modLine (untrackLine p1 line) t line fun l => { l with sub := .pending }
      else modLine p1 t line fun l => { l with sub := .held image }

/-- The image of a line in the entry's buffer. -/
def HoldLine.image (l : HoldLine) : List Byte :=
  match l.sub with
  | .held image => image
  | .pending | .copying | .placed _ | .durable => []

/-- Where an entry with no copy read in flight goes by its lines: WAIT_SPACE with an image left, else COPYING with a
PENDING line left, else RECORDING (R63, R64). -/
def restingState (ls : List HoldLine) : EntryState :=
  if ls.any HoldLine.isHeld then .waitSpace else if ls.any HoldLine.isPending then .copying else .recording

/-- The entry of a tag takes its resting state; in WAIT_SPACE its deadline is examined again (R57, R63). -/
def settleEntry (p : Part) (t : Tag) : Part :=
  expireLate (modHold p t fun e => { e with state := restingState e.lines }) t

/-- The HELD images of an entry are offered in ascending line address while the writer is RUNNING (R63). -/
def offerHeld (p : Part) (e : HoldEntry) : Part :=
  (e.lines.filter HoldLine.isHeld).foldl
    (fun q l => if q.writer.state == .running then offerImage q e.req.tag l.line l.image else q) p

/-- A copy read of the entry of a tag has been answered: when none remains in flight the entry is refused, fails, or goes
on (R62, R63, R65, R116, R164). An entry that fails is not offered the images it holds from before its copy fault, also
with the writer RUNNING again: they go, with their tracker entries, as the entry leaves (the model's choice, log 50). -/
def copiesTested (p : Part) (t : Tag) : Part :=
  match holdEntry p t with
  | none => p
  | some e =>
    if e.lines.any (fun l => l.sub == .copying) then p
    else if withheld p e && !p.power.frozen then dismiss p e .refused
    else if e.failed then dismiss p e .failed
    else settleEntry (offerHeld p e) t

/-- The data of a copy whose entry has left is discarded with the line's tracker entry (R66, R69). -/
def discardCopy (p : Part) (line : Addr) : Part :=
  { p with tracker := p.tracker.filter fun e => e.line != line || e.seq.isSome }

/-- The slot becomes free. -/
def freeSlot (p : Part) (k : Fin 4) : Part := { p with slots := setAt p.slots k none }

/-- A copy read is answered DONE (R62, R65, R66, R116). -/
def copyDone (p : Part) (k : Fin 4) (data : List Byte) : Part :=
  match getAt p.slots k with
  | none => p
  | some s =>
    match s.owner with
    | none => discardCopy (freeSlot p k) s.line
    | some t => copiesTested (offerImage (freeSlot p k) t s.line data) t

/-- A copy read is answered FAILED (R65, R116). The failed line is PENDING from then on (log 45). -/
def copyFailed (p : Part) (k : Fin 4) : Part :=
  match getAt p.slots k with
  | none => p
  | some s =>
    let p1 := raiseEvent (freeSlot p k) .copyFault
    match s.owner with
    | none => discardCopy p1 s.line
    | some t =>
      let p2 := modLine (untrackLine p1 s.line) t s.line fun l => { l with sub := .pending }
      copiesTested (modHold p2 t fun e => { e with failed := true }) t

/-! ### Answers to held writes and reads (R68) -/

/-- Memory has answered a forwarded entry: the response goes upstream and the entry leaves (R68). -/
def heldAnswered (p : Part) (t : Tag) (code : RespCode) (data : List Byte) : Part :=
  match holdEntry p t with
  | none => respond p t code data
  | some e =>
    let p1 := leaveHold (respond p t code data) t
    if e.isWrite then uncountOutstanding p1 e.channel else p1

end Sys2Proof.Machine
end

