-- ==== Sys2Proof/Machine/Epoch.lean ====
section
/-! DEFINITION. The epoch controller (02): the end of an epoch, the commit, and markers. -/

namespace Sys2Proof.Machine

/-! ### The end of an epoch (R36 to R41) -/

/-- What is latched at an epoch end (R40). -/
def latched (ch : Channel) (outcome : EpochOutcome) (faulted : Bool) : Summary :=
  { epoch := ch.epoch, outcome := outcome, journaledWrites := ch.journaledWrites, saves := ch.records,
    trackerHits := ch.trackerHits, untrackedSaves := ch.untrackedSaves, holdExpiries := ch.holdExpiries,
    torn := ch.torn, overflow := ch.overflow, faulted := faulted }

/-- The channel with its live counters at 0 (R39). The saves counter is the records-in-epoch count. -/
def Channel.freshCounters (ch : Channel) : Channel :=
  { ch with journaledWrites := 0, records := 0, trackerHits := 0, untrackedSaves := 0, holdExpiries := 0 }

/-- A cumulative counter at an epoch end: that of the outcome counts up (R41). -/
def countOutcome (ch : Channel) (outcome : EpochOutcome) : Channel :=
  match outcome with
  | .committed => { ch with committed := countUp ch.committed }
  | .aborted => { ch with aborted := countUp ch.aborted }
  | .none => ch

/-- Steps 3 to 5 of R36: the summary, the counters, R_c, the flags, and the next epoch, or EXHAUSTED (R37). -/
def closedChannel (ch : Channel) (outcome : EpochOutcome) (faulted : Bool) : Channel :=
  let ch1 := { countOutcome ch.freshCounters outcome with
    summary := latched ch outcome faulted, resolved := ch.epoch, torn := false, overflow := false, tornRecord := none }
  if ch.epoch == Config.lastEpoch then { ch1 with state := .idle, exhausted := true }
  else { ch1 with state := .opened, epoch := ch.epoch + 1 }

/-- Steps 1 to 5 of the closing actions (R36). -/
def closeEpoch (p : Part) (c : Chan) (outcome : EpochOutcome) (faulted : Bool) : Part :=
  modChan (sweep (clearMasks (untrackChannel p c) c)) c fun ch => closedChannel ch outcome faulted

/-- The end of an epoch: the closing actions of R36, and then the marker's response (R38). The marker is settled with
steps 1 to 5, so that nothing a released entry sets off, such as a halt, is taken for it (R192, log 44). -/
def epochEnd (p : Part) (c : Chan) (outcome : EpochOutcome) (faulted : Bool) (code : RespCode) (reason : MarkerReason) : Part :=
  let p1 := closeEpoch p c outcome faulted
  match (chan p c).marker with
  | none => releaseEpoch p1 c
  | some m => respond (releaseEpoch (settleMarker p1 c code reason) c) m.tag code []

/-! ### Commit (R29 to R34) -/

/-- A commit completes: the epoch ends as COMMITTED and the marker is answered DONE (R32, R38). -/
def commitEnd (p : Part) (c : Chan) : Part :=
  let torn := (chan p c).torn
  let p1 := epochEnd p c .committed false .done (if torn then .torn else .none)
  let p2 := raiseEvent p1 .commitDone
  if torn then raiseEvent p2 .epochTorn else p2

/-- The commit of the channel is drained (R30). -/
def commitDrained (p : Part) (c : Chan) : Bool :=
  !p.hold.queue.any (fun e => e.isWrite && e.channel == c && e.epoch == some (chan p c).epoch) &&
    (chan p c).outstanding == 0

/-- The COMMIT request of the channel waits at the writer (R96). -/
def commitWaits (p : Part) (c : Chan) : Bool := p.writer.waiting.any fun r => r.kind == .commit && r.channel == c

/-- The COMMIT record of the channel (R31, R81). -/
def commitRequest (p : Part) (c : Chan) : PlaceReq :=
  let ch := chan p c
  { kind := .commit, channel := c, epoch := ch.epoch, torn := ch.torn, fault := false, overflowed := ch.overflow,
    line := 0, region := 0xFFFF, image := [], undoCount := ch.records }

/-- The COMMIT record is placed: the marker's deadline stops (R28, R31). -/
def commitPlaced (p : Part) (c : Chan) (n : Seq) : Part :=
  modChan p c fun ch => { ch with marker := ch.marker.map fun m => { m with deadline := none, record := some n } }

/-- A request joins the end of the waiting control requests (R96). -/
def queueControl (p : Part) (r : PlaceReq) : Part :=
  { p with writer := { p.writer with waiting := p.writer.waiting ++ [r] } }

/-- A drained commit asks for its record, or completes at once when the epoch left nothing (R31). -/
def commitAsks (p : Part) (c : Chan) : Part :=
  if (chan p c).records == 0 && !(chan p c).torn then commitEnd p c
  else
    match place p (commitRequest p c) with
    | (p1, some n) => commitPlaced p1 c n
    | (p1, none) => if commitUnplaced p1 c then queueControl p1 (commitRequest p c) else p1

/-- The commit of the channel is drained and has not asked yet (R30, R31). -/
def commitReady (p : Part) (c : Chan) : Bool :=
  (chan p c).state == .committing && commitUnplaced p c && !commitWaits p c && commitDrained p c

/-- The number of the channel's COMMIT record, once it is behind the frontier (R32). -/
def commitDurable (p : Part) (c : Chan) : Option Seq :=
  match (chan p c).marker with
  | none => none
  | some m =>
    match m.record with
    | none => none
    | some n => if m.action == .commit && decide (n ≤ p.writer.frontier) then some n else none

/-- The channel whose durable COMMIT record has the lowest number (log 12). -/
def firstDurable (p : Part) : Option Chan :=
  (allChannels.foldl (fun (best : Option (Seq × Chan)) c =>
    match commitDurable p c, best with
    | none, _ => best
    | some n, none => some (n, c)
    | some n, some b => if n < b.1 then some (n, c) else some b) none).map (·.2)

/-- A commit is given up on its deadline (R33). -/
def giveUp (p : Part) (c : Chan) : Part :=
  let p1 := raiseEvent (answerMarker p c .refused .deadline) .holdExpired
  let p2 := modChan p1 c fun ch => { ch with holdExpiries := countUp ch.holdExpiries, state := .opened }
  let p3 := { p2 with writer := { p2.writer with
    waiting := p2.writer.waiting.filter fun r => !(r.kind == .commit && r.channel == c) } }
  releaseEpoch p3 c

/-! ### Markers (R26 to R29, R35) -/

/-- The outcome of a recognised marker is recorded (R27). -/
def recordMarker (p : Part) (c : Chan) (action : MarkerAction) (result : MarkerResult) (reason : MarkerReason) : Part :=
  modChan p c fun ch => { ch with last := { action := action, result := result, reason := reason } }

/-- A recognised marker is answered at once (R27). -/
def turnDown (p : Part) (r : Request) (c : Chan) (action : MarkerAction) (code : RespCode) (reason : MarkerReason) : Part :=
  respond (recordMarker p c action code.asResult reason) r.tag code []

/-- A COMMIT marker is taken, its result PENDING (R27 to R29). R27 names no reason for it: that it is NONE until the marker is
answered is the model's choice (log 54). -/
def takeCommit (p : Part) (r : Request) (c : Chan) : Part :=
  modChan (recordMarker p c .commit .pending .none) c fun ch =>
    { ch with state := .committing,
              marker := some { tag := r.tag, action := .commit, deadline := joinDeadline p, record := none } }

/-- An ABORT marker is taken, its result PENDING: the channel joins the abort queue (R27, R35, R113). The reason NONE is the
model's choice, as for a COMMIT (log 54). -/
def takeAbort (p : Part) (r : Request) (c : Chan) : Part :=
  let p1 := modChan (recordMarker p c .abort .pending .none) c fun ch =>
    { ch with state := .rollingBack .queued,
              marker := some { tag := r.tag, action := .abort, deadline := none, record := none } }
  { p1 with restore := { p1.restore with abortQueue := p1.restore.abortQueue ++ [c] } }

/-- A recognised marker is checked against its channel and the writer, in the table's order (R27). -/
def markerChecked (p : Part) (r : Request) (c : Chan) : Part :=
  let ch := chan p c
  let action := markerAction r
  if action == .none then turnDown p r c .none .refused .unknownAction
  else if ch.state != .opened then turnDown p r c action .refused .channelState
  else if wordAt r.data 2 != 0 && wordAt r.data 2 != ch.epoch then turnDown p r c action .refused .epochMismatch
  else if p.writer.state == .halted then turnDown p r c action .failed .writerHalted
  else if p.writer.state == .frozen then turnDown p r c action .refused .frozen
  else if action == .commit then takeCommit p r c
  else takeAbort p r c

end Sys2Proof.Machine
end

