-- ==== Sys2Proof/Machine/Rollback.lean ====
section
/-! DEFINITION. Online rollback (06): the drain, the walk list, the walk, and the end of an abort. -/

namespace Sys2Proof.Machine

/-! ### The drain (R114 to R117) -/

/-- What the drain does with one entry of the aborted epoch (R115, R116). -/
def drainEntry (p : Part) (e : HoldEntry) : Part :=
  match e.state with
  | .waitLine | .waitCopy | .waitSpace | .recording => dismiss p e .refused
  | .copying => copiesTested (discardHeld p e) e.req.tag
  | .waitEpoch | .forwarding => p

/-- The write entries of a channel and epoch, in queue order. -/
def epochWrites (p : Part) (c : Chan) (e : Epoch) : List HoldEntry :=
  p.hold.queue.filter fun x => x.isWrite && x.channel == c && x.epoch == some e

/-- A rollback context at its beginning (R114). -/
def freshRollback (c : Chan) (e : Epoch) : Rollback :=
  { channel := c, epoch := e, phase := .draining, start := none, walk := [], cursor := none, fault := false, found := 0,
    abortRecord := none, stage := .idle }

/-- A channel is taken from the abort queue and its drain begins (R114, R115). -/
def serveAbort (p : Part) (c : Chan) (rest : List Chan) : Part :=
  let e := (chan p c).epoch
  let status : RollbackStatus := { channel := some c, restored := 0, skipped := 0, cursorSegment := none }
  let p1 := { p with restore := { p.restore with abortQueue := rest, rollback := some (freshRollback c e), status := status } }
  let p2 := setSubstate p1 c .draining
  (epochWrites p2 c e).foldl drainEntry p2

/-- The engine takes the head of the abort queue when it may (R114, R127). -/
def abortStep (p : Part) : Option Part :=
  match p.restore.rollback, p.restore.abortQueue with
  | none, c :: rest =>
    if (p.writer.state == .running || p.writer.state == .suspended) && !draining p then some (serveAbort p c rest) else none
  | _, _ => none

/-- A walk segment goes into a list ordered by descending first sequence (R118). -/
def insertWalk (s : WalkSegment) : List WalkSegment → List WalkSegment
  | [] => [s]
  | x :: xs => if x.first < s.first then s :: x :: xs else x :: insertWalk s xs

/-- The walk segment of a table entry, if the entry is walked for channel c from S (R118). -/
def walkSegment (c : Chan) (s : Seq) (i : Nat) (e : SegEntry) : Option WalkSegment :=
  if e.mask &&& maskBit c != 0 && (e.state == .closed || e.state == .active) && decide (Config.headerSlots < e.used) &&
      decide (e.first ≤ s) then
    some { seg := i, startSlot := e.used - e.lastLen, first := e.first, endsAtS := e.state == .active }
  else none

/-- The walk list (R118). The newest record is in the ACTIVE segment, so S ends that segment's range. -/
def walkList (p : Part) (c : Chan) (s : Seq) : List WalkSegment :=
  (p.writer.table.mapIdx fun i e => walkSegment c s i e).foldl
    (fun acc x => match x with
      | none => acc
      | some w => insertWalk w acc) []

/-- The drain of the rollback has settled (R117). -/
def drainSettled (p : Part) (x : Rollback) : Bool :=
  (epochWrites p x.channel x.epoch).isEmpty && (chan p x.channel).outstanding == 0

/-! ### The walk (R119 to R122) -/

/-- A rollback fault (R121). -/
def rollbackFault (p : Part) : Part := raiseEvent (modRollback p fun x => { x with fault := true }) .rollbackFault

/-- A line is skipped with a rollback fault (R121). -/
def skipLine (p : Part) : Part :=
  rollbackFault { p with restore := { p.restore with status := { p.restore.status with skipped := p.restore.status.skipped + 1 } } }

/-- The ABORT record of the rollback (R123, R82). -/
def abortRequest (p : Part) (x : Rollback) : PlaceReq :=
  let ch := chan p x.channel
  { kind := .abort, channel := x.channel, epoch := x.epoch, torn := ch.torn, fault := x.fault, overflowed := ch.overflow,
    line := 0, region := 0xFFFF, image := [], undoCount := ch.records }

/-- The ABORT record is placed: its number is kept (R123). -/
def abortPlaced (p : Part) (n : Seq) : Part := modRollback p fun x => { x with abortRecord := some n }

/-- The walk ends and the ABORT record is asked for (R122, R123). -/
def enterRecording (p : Part) (x : Rollback) : Part :=
  let p1 := clearCursor (modRollback p fun y => { y with phase := .recording, stage := .idle })
  let p2 := setSubstate p1 x.channel .recording
  match place p2 (abortRequest p2 x) with
  | (p3, some n) => abortPlaced p3 n
  | (p3, none) => if rollbackAlive p3 then queueControl p3 (abortRequest p2 x) else p3

/-- The walk ends with its list exhausted: a record of the epoch not reached is one more fault (R122). -/
def walkExhausted (p : Part) (x : Rollback) : Part :=
  if x.found < (chan p x.channel).records.toNat then enterRecording (rollbackFault p) { x with fault := true }
  else enterRecording p x

/-- The cursor is set and the header slot there is read (R112, R119). -/
def walkTo (p : Part) (seg slot : Nat) (expected : Option Seq) : Part :=
  let p1 := modRollback p fun x => { x with cursor := some { slot := slot, expected := expected }, stage := .header }
  let p2 := { p1 with restore := { p1.restore with status := { p1.restore.status with cursorSegment := some seg } } }
  handOver p2 [engineRead (.rollback 0) (slotAddr p.classifier.geometry seg slot) 32]

/-- The walk begins in the first segment of a list, or ends with none left (R117, R119, R122). -/
def walkFrom (p : Part) (x : Rollback) (segs : List WalkSegment) : Part :=
  let p1 := modRollback p fun y => { y with walk := segs }
  match segs with
  | [] => walkExhausted p1 { x with walk := [] }
  | s :: _ => walkTo p1 s.seg s.startSlot none

/-- The cursor moves to the next segment of the list (R119, R121). -/
def nextSegment (p : Part) (x : Rollback) : Part := walkFrom p x x.walk.tail

/-- The cursor moves on with a fault that skips no line (R121). -/
def abandonSegment (p : Part) (x : Rollback) : Part := nextSegment (rollbackFault p) { x with fault := true }

/-- The backward step from a record at a slot (R88, R119), after the walk has asked whether it has found all (R122). A
back-link that leads below the record slots is a header that fails its test (log 17). -/
def stepBack (p : Part) (x : Rollback) (slot : Nat) (h : HeaderSlot) : Part :=
  if x.found = (chan p x.channel).records.toNat then enterRecording p x
  else
    match x.walk with
    | [] => walkExhausted p x
    | s :: _ =>
      if h.backLink = 0 then if h.seq = s.first then nextSegment p x else abandonSegment p x
      else if slot < Config.headerSlots + h.backLink then abandonSegment p x
      else walkTo p s.seg (slot - h.backLink) (some (h.seq - 1))

/-- The sequence number is the one the walk wants: the expected one, or, at a segment's start slot, S itself or one
within the segment's range (R119). -/
def walkSeqOk (x : Rollback) (s : WalkSegment) (expected : Option Seq) (n : Seq) : Bool :=
  match expected, x.start with
  | some m, _ => n == m
  | none, some top => if s.endsAtS then n == top else decide (s.first ≤ n) && decide (n ≤ top)
  | none, none => false

/-- The record belongs to the epoch being rolled back (R119). -/
def ofRollback (x : Rollback) (h : HeaderSlot) : Bool :=
  h.kind == some .undo && h.channel == x.channel && h.epoch == x.epoch

/-- The check word is tested from the header slot for COMMIT, ABORT, TORN and PAD records; an UNDO record is not tested
here (R119). -/
def walkHeaderCheck (identity : Word) (h : HeaderSlot) : Bool :=
  match h.kind with
  | some .undo | none => true
  | some .commit | some .abort | some .torn | some .pad => checkMatches identity h []

/-- A walk header has been read (R119). -/
def walkHeader (p : Part) (x : Rollback) (h : HeaderSlot) : Part :=
  let g := p.classifier.geometry
  match x.walk, x.cursor with
  | s :: _, some cur =>
    if headerShape h cur.slot (slotsPerSegment g) && walkSeqOk x s cur.expected h.seq && walkHeaderCheck g.identity h then
      if ofRollback x h then
        let a := slotAddr g s.seg (cur.slot + 1)
        handOver (modRollback p fun y => { y with stage := .payload h (freshPieces a 64) }) (readPieces .rollback a 64)
      else stepBack p x cur.slot h
    else abandonSegment p x
  | _, _ => walkExhausted p x

/-- The payload of an UNDO record of the epoch has been read: its line is restored, or skipped with a fault
(R120, R121). -/
def walkPayload (p : Part) (x : Rollback) (slot : Nat) (h : HeaderSlot) (pieces : List Piece) : Part :=
  let g := p.classifier.geometry
  let image := gatheredData pieces
  let x1 := { x with found := min (x.found + 1) 0xFFFFFFFF }
  let p1 := modRollback p fun y => { y with found := x1.found }
  if anyFailed pieces || !checkMatches g.identity h (payloadWords image) || inWindow g h.line.toNat then
    stepBack (skipLine p1) { x1 with fault := true } slot h
  else
    handOver (modRollback p1 fun y => { y with stage := .restore h }) [engineWrite (.rollback 0) h.line.toNat image]

/-- The engine has no transfer in flight. -/
def walkIdle (p : Part) : Part := modRollback p fun x => { x with stage := .idle }

/-- A line has been restored (R120). -/
def countRestored (p : Part) : Part :=
  { p with restore := { p.restore with status := { p.restore.status with restored := p.restore.status.restored + 1 } } }

/-- The slot the cursor is at. -/
def cursorSlot (x : Rollback) : Nat :=
  match x.cursor with
  | some cur => cur.slot
  | none => 0

/-- A walk header read is answered (R119). Once the rollback has been stopped (R125 to R127) the data is not used
(log 14). -/
def rollbackHeaderAnswered (p : Part) (x : Rollback) (a : ReadAnswer) : Part :=
  let p1 := walkIdle p
  match a with
  | .failed => if rollbackAlive p then abandonSegment p1 x else rollbackFault p1
  | .done data => if rollbackAlive p then walkHeader p1 x (headerOfBytes data) else p1

/-- A piece of a walk payload read is answered (R120, R154). -/
def rollbackPayloadAnswered (p : Part) (x : Rollback) (h : HeaderSlot) (pieces : List Piece) : Part :=
  if allAnswered pieces then
    let p1 := walkIdle p
    if rollbackAlive p then walkPayload p1 x (cursorSlot x) h pieces
    else if anyFailed pieces then skipLine p1
    else p1
  else modRollback p fun y => { y with stage := .payload h pieces }

/-- A walk restore write is answered (R120, R121, R125). -/
def rollbackRestoreAnswered (p : Part) (x : Rollback) (h : HeaderSlot) (a : WriteAnswer) : Part :=
  let p1 := walkIdle p
  match a with
  | .done => if rollbackAlive p then stepBack (countRestored p1) x (cursorSlot x) h else countRestored p1
  | .failed => if rollbackAlive p then stepBack (skipLine p1) { x with fault := true } (cursorSlot x) h else skipLine p1

/-! ### The end (R117, R124) -/

/-- A rollback ends: the epoch ends as ABORTED, the marker is answered and the context removed (R124, R38). -/
def rollbackEnd (p : Part) (x : Rollback) : Part :=
  let torn := (chan p x.channel).torn
  let p1 := { p with restore := { p.restore with rollback := none } }
  let answer : RespCode × MarkerReason :=
    if x.fault then (.failed, .fault) else if torn then (.failed, .torn) else (.done, .none)
  raiseEvent (epochEnd p1 x.channel .aborted x.fault answer.1 answer.2) .abortDone

/-- The start point is fixed at the newest record placed, and the walk list is built (R117, R118). -/
def fixStart (p : Part) (x : Rollback) : Part :=
  let s := p.writer.next - 1
  modRollback p fun y => { y with start := some s, walk := walkList p x.channel s }

/-- The rollback leaves DRAINING: it ends at once when the epoch left nothing, else it enters RESTORING (R117, R122). The walk
of a torn epoch without records has found all of them and ends as it begins: no header is read and no cursor shown (the model's
choice, log 56). -/
def leaveDraining (p : Part) (x : Rollback) : Part :=
  if (chan p x.channel).records == 0 && !(chan p x.channel).torn then rollbackEnd p x
  else
    let p1 := setSubstate (modRollback p fun y => { y with phase := .restoring }) x.channel .restoring
    if (chan p x.channel).records == 0 then enterRecording p1 x else walkFrom p1 x x.walk

/-- What the rollback being served does next of itself: it ends when the frontier passes its ABORT record, its drain
settles, or its walk starts when the frontier reaches S (R117, R124); nothing once it has been stopped (R127). -/
def rollbackStep (p : Part) : Option Part :=
  match p.restore.rollback with
  | none => none
  | some x =>
    if rollbackAlive p then
      match x.abortRecord, x.phase, x.start with
      | some n, _, _ => if n ≤ p.writer.frontier then some (rollbackEnd p x) else none
      | none, .draining, none => if drainSettled p x then some (fixStart p x) else none
      | none, .draining, some s => if s ≤ p.writer.frontier then some (leaveDraining p x) else none
      | none, .restoring, _ => none
      | none, .recording, _ => none
    else none

end Sys2Proof.Machine
end

