-- ==== Sys2Proof/Machine/Recovery.lean ====
section
/-! DEFINITION. Start-up recovery and format (07): the geometry check, scanning, restoring, rebasing, READY and failure. -/

namespace Sys2Proof.Machine

/-! ### The command slot and the geometry check (R16, R177) -/

/-- The last-result record is replaced (R176). -/
def setResult (p : Part) (c : CommandName) (r : CommandResult) (why : CommandReason) : Part :=
  { p with command := { p.command with last := { command := c, result := r, reason := why, detail := .none, overlap := 0 } } }

/-- A command is refused (R177). -/
def refuseCommand (p : Part) (c : CommandName) (why : CommandReason) : Part :=
  raiseEvent (setResult p c .refused why) .commandRefused

/-- A command is refused by the geometry check (R16). -/
def refuseGeometry (p : Part) (c : CommandName) (d : GeometryDetail) (o : Fin 16) : Part :=
  raiseEvent { p with command := { p.command with
    last := { command := c, result := .refused, reason := .geometryInvalid, detail := d, overlap := o } } } .commandRefused

/-- The geometry check: the first condition that fails, with the region of an overlap (R16). The base register holds
address bits 39:16, so its condition holds for every value (log 33). -/
def geometryCheck (p : Part) : Option (GeometryDetail × Fin 16) :=
  let g := p.classifier.geometry
  if journalBase g % 65536 ≠ 0 then some (.baseAlign, 0)
  else if 4 < g.sizeCode.toNat then some (.sizeCode, 0)
  else if g.count.toNat < 4 ∨ 64 < g.count.toNat then some (.segmentCount, 0)
  else if 2 ^ 40 < areaEnd g then some (.areaRange, 0)
  else if (usableSegments g).length < 3 then some (.usableSegments, 0)
  else
    match allRegions.find? fun i => overlapsArea g (getAt p.classifier.regions i) with
    | some i => some (.regionOverlap, i)
    | none => none

/-- The geometry is in force (R15). -/
def putInForce (p : Part) : Part := { p with classifier := { p.classifier with inForce := true } }

/-- The geometry comes into force with the writer's table of FREE and EXCLUDED entries (R15, R90). -/
def buildTable (p : Part) : Part :=
  let q := putInForce p
  { q with writer := { q.writer with table := builtTable q.classifier.geometry } }

/-- The name a busy command has in the last-result record (R176). -/
def busyName (p : Part) : CommandName :=
  match p.command.busy with
  | .recover => .recover
  | .format => .format
  | .softReset => .softReset
  | .none => .none

/-- The busy command ends with a result (R177). -/
def endCommand (p : Part) (r : CommandResult) (why : CommandReason) : Part :=
  let q := setResult p (busyName p) r why
  { q with command := { q.command with busy := .none } }

/-- The reason of COMMAND_STATUS for a failure reason (R176). -/
def FailureReason.asReason : FailureReason → CommandReason
  | .none => .none
  | .readFault => .readFault
  | .noJournal => .noJournal
  | .journalInconsistent => .journalInconsistent
  | .restoreFault => .restoreFault
  | .sequenceExhausted => .sequenceExhausted
  | .rebaseFault => .rebaseFault
  | .frozen => .frozen

/-! ### Failure (R140) -/

/-- Where a failure arose (R132). -/
structure FaultPlace where
  seg : Option Nat
  seq : Option Seq
  line : Option Addr
  second : Option Nat
deriving DecidableEq, Repr

/-- No place: the reason names none. -/
def nowhere : FaultPlace := { seg := none, seq := none, line := none, second := none }

/-- A place that is a segment. -/
def atSegment (s : Nat) : FaultPlace := { nowhere with seg := some s }

/-- Recovery or format enters RECOVERY_FAILED (R140). -/
def recoveryFails (p : Part) (why : FailureReason) (at' : FaultPlace) : Part :=
  let report := { p.restore.report with outcome := .failed, reason := why, faultSegment := at'.seg, faultSeq := at'.seq,
                                        faultLine := at'.line, secondSegment := at'.second }
  let p1 := { p with restore := { p.restore with recovery := .failed, lastFailure := why, stage := .idle, left := [],
                                                 report := report } }
  raiseEvent (endCommand p1 .failed why.asReason) .recoveryFailed

/-- The part with recovery's stage set and its requests handed over. -/
def recoveryReads (p : Part) (st : RecoveryStage) (rs : List DownReq) : Part :=
  handOver { p with restore := { p.restore with stage := st } } rs

/-! ### READY (R91, R139, R21) -/

/-- A channel that opens holds an empty epoch (R21). -/
def Channel.openedEmpty (ch : Channel) : Channel :=
  { ch.freshCounters with state := .opened, outstanding := 0, torn := false, overflow := false, tornRecord := none }

/-- A channel is given R_c and the epoch after it, and opens when enabled; with R_c at the last epoch it is EXHAUSTED
(R21, R37). -/
def assignChannel (ch : Channel) (r : Epoch) : Channel :=
  if r == Config.lastEpoch then { ch with resolved := r, epoch := r, exhausted := true }
  else
    let ch1 := { ch with resolved := r, epoch := r + 1 }
    if ch1.enabled then ch1.openedEmpty else ch1

/-- The channels are assigned R_c values and opened (R21). -/
def assignChannels (p : Part) (r : Chan → Epoch) : Part :=
  allChannels.foldl (fun q c => modChan q c fun ch => assignChannel ch (r c)) p

/-- Recovery or format reaches READY with a header that names f (R139). -/
def reachReady (p : Part) (f : Seq) (r : Chan → Epoch) : Part :=
  let p1 := { p with restore := { p.restore with recovery := .ready, stage := .idle, left := [],
                                                 report := { p.restore.report with outcome := .done } } }
  let p2 := assignChannels (goIntoService p1 f) r
  raiseEvent (endCommand p2 .done .none) .recoveryDone

/-! ### Headers (R130, R138) -/

/-- A segment header is written by format or rebasing (R75). -/
def writeHeader (p : Part) (st : RecoveryStage) (seg : Nat) (active : Bool) (first : Seq) (r : Vector Epoch 4) : Part :=
  let g := p.classifier.geometry
  recoveryReads p st [engineWrite (.recovery 0) (segmentAddr g seg) (segmentHeaderBytes g seg active first r)]

/-- No epoch resolved: what FORMAT writes (R75). -/
def noEpochs : Vector Epoch 4 := Vector.replicate 4 0

/-- The usable segments FORMAT gives EMPTY headers: all but the lowest usable (R130). -/
def formatSegments (g : Geometry) : List Nat := (usableSegments g).tail

/-- FORMAT writes the ACTIVE header last (R130). -/
def formatActive (p : Part) : Part :=
  writeHeader p (.activeHeader (lowestUsable p.classifier.geometry)) (lowestUsable p.classifier.geometry) true 1 noEpochs

/-- FORMAT writes the next EMPTY header of a list, or the ACTIVE header when none is left (R130). -/
def formatFrom (p : Part) (segs : List Nat) : Part :=
  match segs with
  | [] => formatActive p
  | s :: _ => writeHeader p (.formatHeader s) s false 0 noEpochs

/-- The report's resolved-through epochs, as the header of REBASING carries them (R138). -/
def reportEpochs (p : Part) : Vector Epoch 4 := p.restore.report.channels.map fun ch => ch.resolved

/-- The larger of two epochs. -/
def maxEpoch (a b : Epoch) : Epoch := if a.toNat ≤ b.toNat then b else a

/-- A channel's report with its rebased value: the larger of R_c and the open epoch found (R138). -/
def ChannelReport.rebased (ch : ChannelReport) : ChannelReport :=
  { ch with resolved := match ch.openEpoch with
      | none => ch.resolved
      | some e => maxEpoch ch.resolved e }

/-- REBASING after a RECOVER (R138). -/
def rebase (p : Part) : Part :=
  let f := p.restore.tables.highestSeq + 1
  let p1 := { p with restore := { p.restore with recovery := .rebasing, report := { p.restore.report with newFirst := f } } }
  if f ≤ Config.maxSeq then
    let p2 := { p1 with restore := { p1.restore with report := { p1.restore.report with
      channels := p1.restore.report.channels.map ChannelReport.rebased } } }
    let s := lowestUsable p.classifier.geometry
    writeHeader p2 (.activeHeader s) s true f (reportEpochs p2)
  else recoveryFails p1 .sequenceExhausted nowhere

/-! ### Scanning (R133, R134, R87) -/

/-- The tables with one segment's record changed. -/
def modScan (p : Part) (s : Nat) (f : SegmentScan → SegmentScan) : Part :=
  let t := p.restore.tables
  { p with restore := { p.restore with tables := { t with segments := t.segments.modify s f } } }

/-- The tables with one channel's record changed. -/
def modChannelScan (p : Part) (c : Chan) (f : ChannelScan → ChannelScan) : Part :=
  let t := p.restore.tables
  { p with restore := { p.restore with tables := { t with channels := setAt t.channels c (f (getAt t.channels c)) } } }

/-- The highest sequence seen, raised (R134). -/
def sawSequence (p : Part) (n : Seq) : Part :=
  let t := p.restore.tables
  { p with restore := { p.restore with tables := { t with highestSeq := max t.highestSeq n } } }

/-- An epoch item raised to x if lower (R134). -/
def raised (x : Epoch) : Option Epoch → Option Epoch
  | none => some x
  | some e => some (maxEpoch e x)

/-- A record's end record as the tables keep it (R131). -/
def endRecordOf (h : HeaderSlot) : EndRecord :=
  { isAbort := h.kind == some .abort, epoch := h.epoch, torn := h.tornFlag, fault := h.faultFlag,
    overflowed := h.overflowedFlag, undoCount := h.w4 }

/-- The end record with the largest epoch; a later one of the same epoch replaces an earlier (R134, log 38). -/
def newerEnd (h : HeaderSlot) : Option EndRecord → Option EndRecord
  | none => some (endRecordOf h)
  | some r => if r.epoch.toNat ≤ h.epoch.toNat then some (endRecordOf h) else some r

/-- The forward scan accepts a record at a slot of a segment (R134). -/
def acceptRecord (p : Part) (s slot : Nat) (h : HeaderSlot) : Part :=
  let c := h.channel
  let p1 := modScan (sawSequence p h.seq) s fun t => { t with last := some (h.seq, slot), accepted := t.accepted + 1 }
  match h.kind with
  | some .undo =>
    modScan (modChannelScan p1 c fun t => { t with highestSaved := raised h.epoch t.highestSaved }) s fun t =>
      { t with highest := setAt t.highest c (raised h.epoch (getAt t.highest c)) }
  | some .torn =>
    modChannelScan p1 c fun t =>
      { t with highestSaved := raised h.epoch t.highestSaved, highestTorn := raised h.epoch t.highestTorn }
  | some .commit | some .abort => modChannelScan p1 c fun t => { t with lastEnd := newerEnd h t.lastEnd }
  | some .pad | none => p1

/-- A header is valid and USED: the tables take its first sequence and header bounds (R133, R134). -/
def acceptHeader (p : Part) (s : Nat) (bs : List Byte) : Part :=
  let first := segmentHeaderFirst bs
  let t := p.restore.tables
  let p1 := { p with restore := { p.restore with tables := { t with usedHeaders := t.usedHeaders + 1 } } }
  let p2 := modScan (sawSequence p1 (first - 1)) s fun x => { x with status := .used, first := first }
  allChannels.foldl (fun q c => modChannelScan q c fun x =>
    { x with headerBound := maxEpoch x.headerBound (segmentHeaderResolved bs c) }) p2

/-- The end-record bound of a channel (R131): 0 where there is none, which bounds nothing. -/
def endBound (t : ChannelScan) : Epoch :=
  match t.lastEnd with
  | none => 0
  | some r => r.epoch

/-- The resolved-through epoch derived for a channel (R135). -/
def derivedResolved (t : ChannelScan) : Epoch := maxEpoch t.headerBound (endBound t)

/-- An epoch item exceeds a bound. -/
def exceeds (e : Option Epoch) (r : Epoch) : Bool :=
  match e with
  | none => false
  | some x => decide (r.toNat < x.toNat)

/-- A channel's report as the checks derive it (R135). -/
def derivedReport (t : ChannelScan) (ch : ChannelReport) : ChannelReport :=
  let r := derivedResolved t
  { ch with resolved := r, openEpoch := if exceeds t.highestSaved r then t.highestSaved else none,
            tornFound := exceeds t.highestTorn r }

/-- The report takes the derived values (R135). -/
def deriveReport (p : Part) : Part :=
  let t := p.restore.tables
  { p with restore := { p.restore with report := { p.restore.report with
    channels := Vector.zipWith derivedReport t.channels p.restore.report.channels } } }

/-- The claims of the used segments with accepted records, in ascending index order: index, first and last number
(R135). -/
def claims (t : RecoveryTables) : List (Nat × Seq × Seq) :=
  (t.segments.mapIdx fun i s => (i, s)).filterMap fun x =>
    match x.2.status, x.2.last with
    | .used, some l => some (x.1, x.2.first, l.1)
    | _, _ => none

/-- The first pair of segments that claim a common number: the smallest lower index, then the smallest other (R135). -/
def overlappingClaims : List (Nat × Seq × Seq) → Option (Nat × Nat)
  | [] => none
  | a :: rest =>
    match rest.find? fun b => decide (a.2.1 ≤ b.2.2) && decide (b.2.1 ≤ a.2.2) with
    | some b => some (a.1, b.1)
    | none => overlappingClaims rest

/-- A segment needs restoring (R135). -/
def needsRestoring (p : Part) (s : SegmentScan) : Bool :=
  allChannels.any fun c => exceeds (getAt s.highest c) (getAt p.restore.report.channels c).resolved

/-- An index and first number go into a list ordered by descending first number (R136). -/
def insertDescending (x : Nat × Seq) : List (Nat × Seq) → List (Nat × Seq)
  | [] => [x]
  | y :: ys => if y.2 < x.2 then x :: y :: ys else y :: insertDescending x ys

/-- The segments that need restoring, in descending order of first sequence (R136). -/
def restoreOrder (p : Part) : List Nat :=
  ((p.restore.tables.segments.mapIdx fun i s => (i, s)).foldl
    (fun acc x => if needsRestoring p x.2 then insertDescending (x.1, x.2.first) acc else acc) []).map (·.1)

/-- The tables' record of a segment. -/
def scanOf (p : Part) (s : Nat) : SegmentScan := p.restore.tables.segments.getD s SegmentScan.notRead

/-- A header slot of a record is read in RESTORING (R136). -/
def readBack (p : Part) (s slot : Nat) (expected : Seq) : Part :=
  recoveryReads p (.backHeader s slot expected) [engineRead (.recovery 0) (slotAddr p.classifier.geometry s slot) 32]

/-- RESTORING takes the segments of a list; with none left recovery goes to REBASING (R136). -/
def restoreFrom (p : Part) (segs : List Nat) : Part :=
  match segs with
  | [] => rebase p
  | s :: rest =>
    let p1 := { p with restore := { p.restore with left := rest } }
    match (scanOf p s).last with
    | some l => readBack p1 s l.2 l.1
    | none => rebase p1

/-- The checks that end the scan, and the next phase (R135). -/
def scanChecks (p : Part) : Part :=
  if p.restore.tables.validHeaders = 0 then recoveryFails p .noJournal nowhere
  else
    match overlappingClaims (claims p.restore.tables) with
    | some x => recoveryFails p .journalInconsistent { nowhere with seg := some x.1, second := some x.2 }
    | none =>
      let p1 := deriveReport p
      let order := restoreOrder p1
      if order.isEmpty then rebase p1
      else restoreFrom { p1 with restore := { p1.restore with recovery := .restoring } } order

/-- The next usable segment above an index is taken, or the scan ends (R133, R135). -/
def scanAfter (p : Part) (s : Nat) : Part :=
  match (usableSegments p.classifier.geometry).find? fun j => decide (s < j) with
  | some j => recoveryReads p (.scanHeader j) [engineRead (.recovery 0) (segmentAddr p.classifier.geometry j) 64]
  | none => scanChecks p

/-- The next sequence of a scanned segment: its first number plus the records accepted (R87). -/
def SegmentScan.next (t : SegmentScan) : Seq := t.first + t.accepted

/-- The forward scan of a segment ends for a reason, and the scan leaves the segment (R87, R133). -/
def scanEnds (p : Part) (s : Nat) (why : ScanEnd) : Part :=
  scanAfter (modScan p s fun t => { t with ended := some why }) s

/-- The scan goes on at a slot, or leaves a segment that is FULL (R87, R133). -/
def scanAt (p : Part) (s slot : Nat) (expected : Seq) : Part :=
  let g := p.classifier.geometry
  if slot < slotsPerSegment g then
    recoveryReads p (.scanSlot s slot expected) [engineRead (.recovery 0) (slotAddr g s slot) 32]
  else scanEnds p s .full

/-- A record has been tested: an invalid one or a PAD ends the segment's scan (R87). -/
def scanRecordTested (p : Part) (s slot : Nat) (expected : Seq) (h : HeaderSlot) (valid : Bool) : Part :=
  if valid then
    let p1 := acceptRecord p s slot h
    match h.kind with
    | some .undo => scanAt p1 s (slot + 3) (expected + 1)
    | some .commit | some .abort | some .torn => scanAt p1 s (slot + 1) (expected + 1)
    | some .pad | none => scanEnds p1 s .pad
  else scanEnds p s .invalid

/-- A segment's header has been read (R133). -/
def scanHeaderRead (p : Part) (s : Nat) (bs : List Byte) : Part :=
  if segmentHeaderValid p.classifier.geometry s bs then
    let t := p.restore.tables
    let p1 := { p with restore := { p.restore with tables := { t with validHeaders := t.validHeaders + 1 } } }
    if segmentHeaderUsed bs then scanAt (acceptHeader p1 s bs) s Config.headerSlots (segmentHeaderFirst bs)
    else scanAfter (modScan p1 s fun x => { x with status := .empty }) s
  else scanAfter (modScan p s fun x => { x with status := .invalid }) s

/-- The piece of a whole-record read of SCANNING with a place is presented, and only it: the engine holds one read in
flight (R133). -/
def scanPieceRead (p : Part) (s slot : Nat) (expected : Seq) (pieces : List Piece) (k : Nat) : Part :=
  recoveryReads p (.scanRecord s slot expected pieces)
    (((readPieces .recovery (slotAddr p.classifier.geometry s slot) 96).drop k).take 1)

/-- A header slot has been read in SCANNING: a whole UNDO record is read where it fits (R133). -/
def scanSlotRead (p : Part) (s slot : Nat) (expected : Seq) (bs : List Byte) : Part :=
  let g := p.classifier.geometry
  let h := headerOfBytes bs
  if h.kind == some .undo && decide (slot + 3 ≤ slotsPerSegment g) then
    scanPieceRead p s slot expected (freshPieces (slotAddr g s slot) 96) 0
  else scanRecordTested p s slot expected h (recordValid g.identity h [] slot (slotsPerSegment g) expected)

/-- A whole UNDO record has been read in SCANNING (R133). -/
def scanWholeRead (p : Part) (s slot : Nat) (expected : Seq) (bs : List Byte) : Part :=
  let g := p.classifier.geometry
  let h := headerOfBytes bs
  scanRecordTested p s slot expected h
    (recordValid g.identity h (bs.drop 32) slot (slotsPerSegment g) expected)

/-! ### Restoring (R136, R137) -/

/-- The line of a record, where its header shows one (R137, log 18). -/
def faultLineOf (h : HeaderSlot) : Option Addr := if h.kind == some .undo then some h.line else none

/-- RESTORING fails at a record (R137). -/
def restoreFails (p : Part) (s : Nat) (n : Seq) (line : Option Addr) : Part :=
  recoveryFails p .restoreFault { seg := some s, seq := some n, line := line, second := none }

/-- A channel's report, changed. -/
def modReport (p : Part) (c : Chan) (f : ChannelReport → ChannelReport) : Part :=
  let r := p.restore.report
  { p with restore := { p.restore with report := { r with channels := setAt r.channels c (f (getAt r.channels c)) } } }

/-- The backward step of RESTORING (R88, R136). The walk of a segment ends at slot 2, whatever the back-link of the record
there (R136); a back-link that leads below slot 2 from above it is log 17. -/
def backStep (p : Part) (s slot : Nat) (expected : Seq) (h : HeaderSlot) : Part :=
  if h.backLink = 0 ∨ slot = Config.headerSlots then restoreFrom p p.restore.left
  else if slot < Config.headerSlots + h.backLink then restoreFails p s (expected - 1) none
  else readBack p s (slot - h.backLink) (expected - 1)

/-- A record is one that RESTORING restores: UNDO, above its channel's R_c (R136). -/
def toRestore (p : Part) (h : HeaderSlot) : Bool :=
  h.kind == some .undo && exceeds (some h.epoch) (getAt p.restore.report.channels h.channel).resolved

/-- The check word of a header slot that RESTORING does not read the payload of: tested for every kind but UNDO
(log 16). -/
def backHeaderOk (p : Part) (h : HeaderSlot) (slot : Nat) (expected : Seq) : Bool :=
  let g := p.classifier.geometry
  headerShape h slot (slotsPerSegment g) && h.seq == expected && walkHeaderCheck g.identity h

/-- A record's header slot has been read in RESTORING (R136). -/
def backHeaderRead (p : Part) (s slot : Nat) (expected : Seq) (h : HeaderSlot) : Part :=
  let g := p.classifier.geometry
  if backHeaderOk p h slot expected then
    if toRestore p h then
      let a := slotAddr g s (slot + 1)
      recoveryReads p (.backPayload s slot expected h (freshPieces a 64)) (readPieces .recovery a 64)
    else backStep p s slot expected h
  else restoreFails p s expected (faultLineOf h)

/-- A record's payload has been read in RESTORING (R136). -/
def backPayloadRead (p : Part) (s slot : Nat) (expected : Seq) (h : HeaderSlot) (image : List Byte) : Part :=
  let g := p.classifier.geometry
  if checkMatches g.identity h (payloadWords image) then
    if inWindow g h.line.toNat then
      backStep (modReport p h.channel fun r => { r with skipped := r.skipped + 1 }) s slot expected h
    else recoveryReads p (.backWrite s slot expected h) [engineWrite (.recovery 0) h.line.toNat image]
  else restoreFails p s expected (some h.line)

/-- A line has been restored: the counts of its channel (R136). -/
def countRecovered (p : Part) (h : HeaderSlot) : Part :=
  let c := h.channel
  let again := getAt p.restore.previous c == some h.epoch
  let p1 := modReport p c fun r =>
    { r with restored := r.restored + 1, epochsRestored := if again then r.epochsRestored else r.epochsRestored + 1 }
  { p1 with restore := { p1.restore with previous := setAt p1.restore.previous c (some h.epoch) } }

/-! ### Answers (R133, R136 to R139, R142, R143) -/

/-- What an answer to recovery does when the freeze or a soft reset has stopped recovery: nothing in a drain (R142),
RECOVERY_FAILED with reason FROZEN in a freeze (R143); else `go`. -/
def unlessStopped (p : Part) (go : Part) : Part :=
  if draining p then { p with restore := { p.restore with stage := .idle } }
  else if p.power.frozen then recoveryFails p .frozen nowhere
  else go

/-- A read of SCANNING is answered: a whole transfer (R133). -/
def scanAnswered (p : Part) (a : ReadAnswer) : Part :=
  match p.restore.stage, a with
  | .scanHeader s, .done bs => unlessStopped p (scanHeaderRead p s bs)
  | .scanHeader s, .failed => unlessStopped p (recoveryFails p .readFault (atSegment s))
  | .scanSlot s slot n, .done bs => unlessStopped p (scanSlotRead p s slot n bs)
  | .scanSlot s _ _, .failed => unlessStopped p (recoveryFails p .readFault (atSegment s))
  | _, _ => p

/-- A piece of the whole-record read of SCANNING is answered: FAILED stops the scan at once, and after DONE the next piece
is read, or the record is tested once none is left (R133, R154). -/
def scanPieceAnswered (p : Part) (s slot : Nat) (n : Seq) (pieces : List Piece) (k : Nat) (a : ReadAnswer) : Part :=
  match a with
  | .failed => unlessStopped p (recoveryFails p .readFault (atSegment s))
  | .done data =>
    let ps := pieces.set k (.done data)
    unlessStopped p
      (if allAnswered ps then scanWholeRead p s slot n (gatheredData ps) else scanPieceRead p s slot n ps (k + 1))

/-- The header read of RESTORING is answered (R136, R137). -/
def backHeaderAnswered (p : Part) (s slot : Nat) (n : Seq) (a : ReadAnswer) : Part :=
  match a with
  | .done bs => unlessStopped p (backHeaderRead p s slot n (headerOfBytes bs))
  | .failed => unlessStopped p (restoreFails p s n none)

/-- The payload read of RESTORING after one of its pieces is answered (R136, R137, R154). -/
def backPieces (p : Part) (s slot : Nat) (n : Seq) (h : HeaderSlot) (pieces : List Piece) : Part :=
  if allAnswered pieces then
    unlessStopped p
      (if anyFailed pieces then restoreFails p s n (some h.line)
       else backPayloadRead p s slot n h (gatheredData pieces))
  else { p with restore := { p.restore with stage := .backPayload s slot n h pieces } }

/-- The restore write of RESTORING is answered (R136, R137). A write answered DONE while frozen has restored its line
(log 15). -/
def backWriteAnswered (p : Part) (s slot : Nat) (n : Seq) (h : HeaderSlot) (a : WriteAnswer) : Part :=
  match a with
  | .done =>
    if draining p then unlessStopped p p
    else unlessStopped (countRecovered p h) (backStep (countRecovered p h) s slot n h)
  | .failed => unlessStopped p (restoreFails p s h.seq (some h.line))

/-- An EMPTY header write of FORMAT is answered (R130). -/
def formatAnswered (p : Part) (s : Nat) (a : WriteAnswer) : Part :=
  match a with
  | .done => unlessStopped p (formatFrom p ((formatSegments p.classifier.geometry).filter fun j => decide (s < j)))
  | .failed => unlessStopped p (recoveryFails p .rebaseFault (atSegment s))

/-- The first number that the ACTIVE header in flight names (R130, R138). -/
def activeFirst (p : Part) : Seq := if p.command.busy == .format then 1 else p.restore.report.newFirst

/-- The ACTIVE header write is answered (R138, R139). -/
def activeAnswered (p : Part) (s : Nat) (a : WriteAnswer) : Part :=
  match a with
  | .done => unlessStopped p (reachReady p (activeFirst p) fun c => (getAt p.restore.report.channels c).resolved)
  | .failed => unlessStopped p (recoveryFails p .rebaseFault (atSegment s))

/-! ### Starting (R129, R130) -/

/-- The tables and the report are cleared for a command of a kind (R131, R132). -/
def clearReport (p : Part) (k : ReportKind) : Part :=
  { p with restore := { p.restore with
      tables := { RecoveryTables.cleared with
                  segments := List.replicate p.classifier.geometry.count.toNat SegmentScan.notRead },
      report := { Report.cleared with kind := k },
      left := [], previous := Vector.replicate 4 none } }

/-- A RECOVER that has passed its checks (R129, R133). -/
def beginRecover (p : Part) : Part :=
  let p1 := clearReport (buildTable p) .recover
  let p2 := { p1 with command := { p1.command with busy := .recover },
                      restore := { p1.restore with recovery := .scanning } }
  let g := p2.classifier.geometry
  recoveryReads p2 (.scanHeader (lowestUsable g)) [engineRead (.recovery 0) (segmentAddr g (lowestUsable g)) 64]

/-- A FORMAT that has passed its checks (R130). -/
def beginFormat (p : Part) : Part :=
  let p1 := clearReport (buildTable p) .format
  let p2 := { p1 with command := { p1.command with busy := .format },
                      restore := { p1.restore with recovery := .rebasing } }
  formatFrom p2 (formatSegments p2.classifier.geometry)

/-- The segment recovery is reading or writing (R128). -/
def recoverySegment (p : Part) : Option Nat :=
  match p.restore.stage with
  | .idle => none
  | .scanHeader s | .scanSlot s _ _ | .scanRecord s _ _ _ => some s
  | .backHeader s _ _ | .backPayload s _ _ _ _ | .backWrite s _ _ _ => some s
  | .formatHeader s | .activeHeader s => some s

end Sys2Proof.Machine
end

