-- ==== Sys2Proof/Machine/Settle.lean ====
section
/-! DEFINITION. What the blocks do of themselves once a command has changed what they wait for: entries leave WAIT_LINE and
are forwarded, commits and aborts move on, space is handed out, slots are assigned. `settle` carries these internal
events out, in a fixed order, until none is due (log 9); they are part of the command that made them due (95). -/

namespace Sys2Proof.Machine

/-- R54: the entries in WAIT_LINE are tested after an entry went to FORWARDING or left. -/
def lineTestStep (p : Part) : Option Part :=
  if p.hold.lineTest then
    match p.hold.queue.find? fun e => e.state == .waitLine && olderCleared p.hold.queue e with
    | some e => some (proceed p e)
    | none => some { p with hold := { p.hold with lineTest := false } }
  else none

/-- R67: the first forwardable entry in queue order is handed on. -/
def forwardStep (p : Part) : Option Part := (p.hold.queue.find? (forwardable p)).map (forward p)

/-- R32: a commit whose record is behind the frontier completes. -/
def commitEndStep (p : Part) : Option Part := (firstDurable p).map (commitEnd p)

/-- R30, R31: a drained commit asks for its record or completes. -/
def commitAskStep (p : Part) : Option Part := (allChannels.find? (commitReady p)).map (commitAsks p)

/-- R103: a SUSPENDED writer that can place an UNDO record again returns to RUNNING. -/
def resumeStep (p : Part) : Option Part :=
  if p.writer.state == .suspended && !draining p && rowAllows p .undo then
    some { p with writer := { p.writer with state := .running } }
  else none

/-- A waiting control request has been placed: its block keeps the number (R31, R123). -/
def controlPlaced (p : Part) (r : PlaceReq) (n : Seq) : Part :=
  match r.kind with
  | .commit => commitPlaced p r.channel n
  | .abort => abortPlaced p n
  | .undo | .torn | .pad => p

/-- R96: the waiting request at the head of the list is placed when it can be. -/
def waitingStep (p : Part) : Option Part :=
  match p.writer.waiting with
  | [] => none
  | r :: rest =>
    if accepts p r.kind && rowAllows p r.kind then
      match place { p with writer := { p.writer with waiting := rest } } r with
      | (p1, some n) => some (controlPlaced p1 r n)
      | (p1, none) => some p1
    else none

/-- R64: while the writer is RUNNING, the next HELD image of the first entry in WAIT_SPACE is offered. -/
def heldStep (p : Part) : Option Part :=
  if p.writer.state == .running && !draining p then
    match p.hold.queue.find? fun e => e.state == .waitSpace with
    | none => none
    | some e =>
      match e.lines.find? HoldLine.isHeld with
      | none => some (settleEntry p e.req.tag)
      | some l =>
        let p1 := offerImage p e.req.tag l.line l.image
        match holdEntry p1 e.req.tag with
        | none => some p1
        | some x => if x.lines.any HoldLine.isHeld then some p1 else some (settleEntry p1 e.req.tag)
  else none

/-- R56: the request waiting at the head of the intake queue is taken again after an entry left. -/
def headRetryStep (p : Part) : Option Part :=
  if p.hold.headRetry then
    let p0 := { p with hold := { p.hold with headRetry := false } }
    match p0.port.intake with
    | [] => some p0
    | h :: rest =>
      match h.cls with
      | none => some p0
      | some k =>
        match holdTake { p0 with port := { p0.port with intake := rest } } h.req k with
        | some p1 => some p1
        | none => some p0
  else none

/-- The next internal event that is due, in the model's order: what a rise of the frontier brings about stands first
(R100, log 9, log 12, log 52). -/
def internal (p : Part) : Option Part :=
  (forwardStep p).or <| (commitEndStep p).or <| (rollbackStep p).or <| (lineTestStep p).or <| (commitAskStep p).or <|
    (abortStep p).or <| (resumeStep p).or <| (waitingStep p).or <| (heldStep p).or <| (headRetryStep p).or (assignSlot p)

/-- Internal events are carried out until none is due, or the bound is reached. -/
def settleFor : Nat → Part → Part
  | 0, p => p
  | k + 1, p =>
    match internal p with
    | none => p
    | some q => settleFor k q

/-- The part at rest (log 9). -/
def settle (p : Part) : Part := settleFor Config.settleFuel p

end Sys2Proof.Machine
end

