-- ==== Sys2Proof/Machine/Classify.lean ====
section
/-! DEFINITION. The upstream port's checks (8.1), the classifier (1.3, 1.4) and the arbiter's turn (8.4), and the meanings of
the rows UPSTREAM_REQUEST, CLASSIFY_REQUEST and ARBITER_TURN. -/

namespace Sys2Proof.Machine

/-- A command's effect on the part; the queue is left as it is. -/
def changed (s : State) (f : Part → Part) : Host.Outcome State Fault Refusal := .next { s with part := f s.part }

/-! ### The upstream port (R145 to R149) -/

/-- A protocol error is recorded and raised (R147, R148, R149). -/
def protocolError (p : Part) (r : Request) (why : ProtocolReason) : Part :=
  raiseEvent { p with port := { p.port with protocol := { tag := r.tag, kind := r.kind, reason := why } } } .protocolError

/-- The request's last byte lies in another block than its first (R148). -/
def crossesBlock (r : Request) : Bool :=
  blockNumber r.addr.toNat != blockNumber (r.addr.toNat + (r.len - 1))

/-- The port can take a request (R145). -/
def portOpen (p : Part) : Bool := decide (p.port.intake.length < Config.intakeDepth) && !draining p

/-- A request is accepted into the intake queue (R145, R146). -/
def acceptRequest (p : Part) (r : Request) : Part :=
  { p with port := { p.port with tags := setAt p.port.tags r.tag true, intake := p.port.intake ++ [{ req := r, cls := none }] } }

/-- A request presented at the port (R145, R147, R148). One that the port cannot take yet changes nothing (log 3). -/
def requestPresented (p : Part) (r : Request) : Part :=
  if portOpen p then
    if tagOutstanding p r.tag then protocolError p r .tagInUse
    else if r.len = 0 ∨ 256 < r.len then respond (protocolError p r .badLength) r.tag .refused []
    else if crossesBlock r then respond (protocolError p r .blockCrossing) r.tag .refused []
    else acceptRequest p r
  else p

/-! ### The classifier (R5 to R13) -/

/-- Where the classifier sends a request (R5 to R13). -/
inductive Destination where
  | areaWrite
  | refuse
  | passDown
  | candidate (c : Chan)
  | hold (k : Classification)
deriving DecidableEq, Repr

/-- The class treatment of a request whose entry is known (R8 to R13). -/
def classDestination (p : Part) (kind : Kind) (i : Fin 16) (e : RegionEntry) : Destination :=
  match e.cls, kind with
  | .pass, _ => .passDown
  | .guarded, .read => .passDown
  | .guarded, .write => .refuse
  | .marker, k =>
    if p.restore.recovery != .ready then .refuse
    else match k with
      | .read => .passDown
      | .write => .candidate e.channel
  | .strict, k | .lenient, k =>
    if p.restore.recovery != .ready then .refuse
    else if k == .write && (chan p e.channel).state == .idle then .refuse
    else .hold { cls := e.cls, channel := e.channel, region := i,
                 counted := k == .write && (chan p e.channel).state == .opened }

/-- The classifier's decision, in its order (R5). -/
def destination (p : Part) (r : Request) : Destination :=
  if inWindow p.classifier.geometry r.addr.toNat then
    match r.kind with
    | .read => .passDown
    | .write => .areaWrite
  else
    match lookupRegion p.classifier.regions (pageOf r.addr) with
    | none => .passDown
    | some i => classDestination p r.kind i (getAt p.classifier.regions i)

/-- A write into the journal-area window is counted and refused (R6). -/
def refuseAreaWrite (p : Part) (r : Request) : Part :=
  respond { p with classifier := { p.classifier with areaWrites := countUp p.classifier.areaWrites } } r.tag .refused []

/-- A marker candidate: a marker is checked, any other write is forwarded with MARKER_IGNORED (R26, R27). -/
def candidateTaken (p : Part) (r : Request) (c : Chan) : Part :=
  if isMarker r (chan p c).code then settle (markerChecked p r c)
  else raiseEvent (handOver p [passThrough r (.plain r.tag)]) .markerIgnored

/-- A journaled write taken while its channel is OPEN is counted as it is classified (R39). -/
def countedAtClassify (p : Part) (k : Classification) : Part := if k.counted then countJournaled p k.channel else p

/-- The hold unit takes the request, or it stays at the head of the intake queue, already classified (R5, R56). `p` has
the request out of the queue, `rest` is what was behind it. -/
def holdOrWait (p : Part) (rest : List IntakeEntry) (r : Request) (k : Classification) : Part :=
  let p1 := countedAtClassify p k
  match holdTake p1 r k with
  | some q => settle q
  | none => { p1 with port := { p1.port with intake := { req := r, cls := some k } :: rest } }

/-- The classifier takes the head of the intake queue (R5). With no head, or one that already waits for a hold entry,
there is nothing to take (log 2). -/
def classifyHead (p : Part) : Part :=
  match p.port.intake with
  | [] => p
  | h :: rest =>
    match h.cls with
    | some _ => p
    | none =>
      let r := h.req
      let q := { p with port := { p.port with intake := rest } }
      match destination p r with
      | .areaWrite => refuseAreaWrite q r
      | .refuse => respond q r.tag .refused []
      | .passDown => handOver q [passThrough r (.plain r.tag)]
      | .candidate c => candidateTaken q r c
      | .hold k => holdOrWait q rest r k

/-! ### The arbiter's turn (R155) -/

/-- A turn issues the head it chooses with a free tag; with the tag in use or nothing eligible no turn is taken
(log 2, log 7). -/
def turnTaken (p : Part) (t : DTag) : Part :=
  match issuedAt p t, turnChoice p with
  | none, some (side, k, r) =>
    { p with arbiter := { p.arbiter with waiting := p.arbiter.waiting.eraseIdx k,
                                         issued := setAt p.arbiter.issued t (some r), lastTurn := side } }
  | _, _ => p

/-! ### The rows -/

/-- UPSTREAM_REQUEST (R145). -/
def execUpstreamRequest (r : Request) (s : State) : Host.Outcome State Fault Refusal :=
  changed s fun p => requestPresented p r

/-- CLASSIFY_REQUEST (R5). -/
def execClassifyRequest (s : State) : Host.Outcome State Fault Refusal := changed s classifyHead

/-- ARBITER_TURN (R155). -/
def execArbiterTurn (t : DTag) (s : State) : Host.Outcome State Fault Refusal := changed s fun p => turnTaken p t

end Sys2Proof.Machine
end

