-- ==== Sys2Proof/Machine/Answers.lean ====
section
/-! DEFINITION. The rows in which memory answers a downstream request (R152), and the two rows in which a deadline is
reached. An answer whose tag is not held by a request of the row's kind is none of the row's (log 2). -/

namespace Sys2Proof.Machine

/-! ### Pass-through (R157, R158) -/

/-- Memory has answered a pass-through request with a code and, for a read answered DONE, data (R157, R158, R68). -/
def ptAnswered (p : Part) (r : DownReq) (code : RespCode) (data : List Byte) : Part :=
  match r.purpose with
  | .plain t => respond p t code data
  | .direct t c => settle (uncountOutstanding (respond p t code data) c)
  | .held t => settle (heldAnswered p t code data)
  | .copy _ | .record _ | .header _ | .rollback _ | .recovery _ => p

/-- The data a response carries: a read's (8.1). -/
def responseData (r : DownReq) (data : List Byte) : List Byte :=
  match r.kind with
  | .read => data
  | .write => []

/-- A pass-through request is answered DONE (R157). -/
def ptDone (p : Part) (t : DTag) (data : List Byte) : Part :=
  match issuedAt p t with
  | none => p
  | some r => if r.purpose.requester == .pt then ptAnswered (freeTag p t) r .done (responseData r data) else p

/-- A pass-through request is answered FAILED (R158). -/
def ptFailed (p : Part) (t : DTag) : Part :=
  match issuedAt p t with
  | none => p
  | some r => if r.purpose.requester == .pt then ptAnswered (raiseEvent (freeTag p t) .dataFault) r .failed [] else p

/-- PT_ANSWER_DONE (R157). -/
def execPtAnswerDone (t : DTag) (data : List Byte) (s : State) : Host.Outcome State Fault Refusal :=
  changed s fun p => ptDone p t data

/-- PT_ANSWER_FAILED (R158). -/
def execPtAnswerFailed (t : DTag) (s : State) : Host.Outcome State Fault Refusal := changed s fun p => ptFailed p t

/-! ### Copy reads (R62, R65) -/

/-- The copy slot whose read holds a downstream tag. -/
def copySlotOf (p : Part) (t : DTag) : Option (Fin 4) :=
  match issuedAt p t with
  | none => none
  | some r =>
    match r.purpose with
    | .copy k => some k
    | .plain _ | .direct _ _ | .held _ | .record _ | .header _ | .rollback _ | .recovery _ => none

/-- COPY_READ_DONE (R62). -/
def execCopyReadDone (t : DTag) (data : List Byte) (s : State) : Host.Outcome State Fault Refusal :=
  changed s fun p =>
    match copySlotOf p t with
    | none => p
    | some k => settle (copyDone (freeTag p t) k data)

/-- COPY_READ_FAILED (R65). -/
def execCopyReadFailed (t : DTag) (s : State) : Host.Outcome State Fault Refusal :=
  changed s fun p =>
    match copySlotOf p t with
    | none => p
    | some k => settle (copyFailed (freeTag p t) k)

/-! ### Record and header writes (R100, R101) -/

/-- The record or header write that holds a downstream tag. -/
def recordWriteOf (p : Part) (t : DTag) : Option Purpose :=
  match issuedAt p t with
  | none => none
  | some r => if r.purpose.requester == .rw then some r.purpose else none

/-- RECORD_WRITE_DONE (R100). -/
def execRecordWriteDone (t : DTag) (s : State) : Host.Outcome State Fault Refusal :=
  changed s fun p =>
    match recordWriteOf p t with
    | none => p
    | some w => settle (journalWriteDone (freeTag p t) w)

/-- RECORD_WRITE_FAILED (R101). -/
def execRecordWriteFailed (t : DTag) (s : State) : Host.Outcome State Fault Refusal :=
  changed s fun p =>
    match recordWriteOf p t with
    | none => p
    | some w => settle (journalWriteFailed (freeTag p t) w)

/-! ### The rollback walk (R119, R120) -/

/-- The rollback being served and the piece of its transfer that holds a downstream tag. -/
def walkPieceOf (p : Part) (t : DTag) : Option (Rollback × Nat) :=
  match issuedAt p t, p.restore.rollback with
  | some r, some x =>
    match r.purpose with
    | .rollback k => some (x, k)
    | .plain _ | .direct _ _ | .held _ | .copy _ | .record _ | .header _ | .recovery _ => none
  | _, _ => none

/-- A walk header read is answered (R119). -/
def walkHeaderRow (p : Part) (t : DTag) (a : ReadAnswer) : Part :=
  match walkPieceOf p t with
  | none => p
  | some (x, _) =>
    match x.stage with
    | .header => settle (rollbackHeaderAnswered (freeTag p t) x a)
    | .idle | .payload _ _ | .restore _ => p

/-- A piece of a walk payload read is answered (R120). -/
def walkPayloadRow (p : Part) (t : DTag) (a : ReadAnswer) : Part :=
  match walkPieceOf p t with
  | none => p
  | some (x, k) =>
    match x.stage with
    | .payload h pieces => settle (rollbackPayloadAnswered (freeTag p t) x h (pieces.set k (pieceOfAnswer a)))
    | .idle | .header | .restore _ => p

/-- A walk restore write is answered (R120). -/
def walkRestoreRow (p : Part) (t : DTag) (a : WriteAnswer) : Part :=
  match walkPieceOf p t with
  | none => p
  | some (x, _) =>
    match x.stage with
    | .restore h => settle (rollbackRestoreAnswered (freeTag p t) x h a)
    | .idle | .header | .payload _ _ => p

/-- ROLLBACK_HEADER_READ_ANSWERED (R119). -/
def execRollbackHeaderReadAnswered (t : DTag) (a : ReadAnswer) (s : State) : Host.Outcome State Fault Refusal :=
  changed s fun p => walkHeaderRow p t a

/-- ROLLBACK_PAYLOAD_READ_ANSWERED (R120). -/
def execRollbackPayloadReadAnswered (t : DTag) (a : ReadAnswer) (s : State) : Host.Outcome State Fault Refusal :=
  changed s fun p => walkPayloadRow p t a

/-- ROLLBACK_RESTORE_WRITE_ANSWERED (R120). -/
def execRollbackRestoreWriteAnswered (t : DTag) (a : WriteAnswer) (s : State) : Host.Outcome State Fault Refusal :=
  changed s fun p => walkRestoreRow p t a

/-! ### Recovery and format (R130, R133, R136 to R139) -/

/-- The piece of recovery's transfer that holds a downstream tag. -/
def recoveryPieceOf (p : Part) (t : DTag) : Option Nat :=
  match issuedAt p t with
  | none => none
  | some r =>
    match r.purpose with
    | .recovery k => some k
    | .plain _ | .direct _ _ | .held _ | .copy _ | .record _ | .header _ | .rollback _ => none

/-- A read of SCANNING is answered (R133). -/
def scanRow (p : Part) (t : DTag) (a : ReadAnswer) : Part :=
  match recoveryPieceOf p t with
  | none => p
  | some k =>
    match p.restore.stage with
    | .scanHeader _ | .scanSlot _ _ _ => scanAnswered (freeTag p t) a
    | .scanRecord s slot n pieces => scanPieceAnswered (freeTag p t) s slot n pieces k a
    | .idle | .backHeader _ _ _ | .backPayload _ _ _ _ _ | .backWrite _ _ _ _ | .formatHeader _ | .activeHeader _ => p

/-- A read of RESTORING is answered (R136). -/
def backReadRow (p : Part) (t : DTag) (a : ReadAnswer) : Part :=
  match recoveryPieceOf p t with
  | none => p
  | some k =>
    match p.restore.stage with
    | .backHeader s slot n => backHeaderAnswered (freeTag p t) s slot n a
    | .backPayload s slot n h pieces => backPieces (freeTag p t) s slot n h (pieces.set k (pieceOfAnswer a))
    | .idle | .scanHeader _ | .scanSlot _ _ _ | .scanRecord _ _ _ _ | .backWrite _ _ _ _ | .formatHeader _
    | .activeHeader _ => p

/-- The write that recovery has in flight is answered, when it is one that `pick` knows. -/
def recoveryWriteRow (p : Part) (t : DTag) (pick : RecoveryStage → Option (Part → Part)) : Part :=
  match recoveryPieceOf p t with
  | none => p
  | some _ =>
    match pick p.restore.stage with
    | some go => go (freeTag p t)
    | none => p

/-- A restore write of RESTORING is answered (R136). -/
def backWriteRow (p : Part) (t : DTag) (a : WriteAnswer) : Part :=
  recoveryWriteRow p t fun st =>
    match st with
    | .backWrite s slot n h => some fun q => backWriteAnswered q s slot n h a
    | _ => none

/-- An EMPTY header write of FORMAT is answered (R130). -/
def formatRow (p : Part) (t : DTag) (a : WriteAnswer) : Part :=
  recoveryWriteRow p t fun st =>
    match st with
    | .formatHeader s => some fun q => formatAnswered q s a
    | _ => none

/-- The ACTIVE header write of a rebase or FORMAT is answered (R139). -/
def activeRow (p : Part) (t : DTag) (a : WriteAnswer) : Part :=
  recoveryWriteRow p t fun st =>
    match st with
    | .activeHeader s => some fun q => activeAnswered q s a
    | _ => none

/-- SCAN_READ_ANSWERED (R133). -/
def execScanReadAnswered (t : DTag) (a : ReadAnswer) (s : State) : Host.Outcome State Fault Refusal :=
  changed s fun p => scanRow p t a

/-- RECOVERY_RESTORE_READ_ANSWERED (R136). -/
def execRecoveryRestoreReadAnswered (t : DTag) (a : ReadAnswer) (s : State) : Host.Outcome State Fault Refusal :=
  changed s fun p => backReadRow p t a

/-- RECOVERY_RESTORE_WRITE_ANSWERED (R136). -/
def execRecoveryRestoreWriteAnswered (t : DTag) (a : WriteAnswer) (s : State) : Host.Outcome State Fault Refusal :=
  changed s fun p => backWriteRow p t a

/-- FORMAT_HEADER_WRITE_ANSWERED (R130). -/
def execFormatHeaderWriteAnswered (t : DTag) (a : WriteAnswer) (s : State) : Host.Outcome State Fault Refusal :=
  changed s fun p => formatRow p t a

/-- REBASE_HEADER_WRITE_ANSWERED (R139). -/
def execRebaseHeaderWriteAnswered (t : DTag) (a : WriteAnswer) (s : State) : Host.Outcome State Fault Refusal :=
  changed s fun p => activeRow p t a

/-- STALE_DOWNSTREAM_ANSWER: an answer whose tag is not outstanding is discarded without effect (R152). -/
def execStaleDownstreamAnswer (_t : DTag) (s : State) : Host.Outcome State Fault Refusal := changed s fun p => p

/-! ### Deadlines (R33, R58) -/

/-- The time has reached a deadline (log 1). -/
def reachTime (p : Part) (d : Time) : Part := { p with now := max p.now d }

/-- The deadline of a hold entry is examined now, and this is it (R57). -/
def dueDeadline (e : HoldEntry) : Option Time := if e.state.isWaiting && !e.failed then e.deadline else none

/-- A waiting hold entry reaches its deadline (R57, R58). -/
def holdExpiryRow (p : Part) (tag : Tag) : Part :=
  match holdEntry p tag with
  | none => p
  | some e =>
    match dueDeadline e with
    | none => p
    | some d => settle (expire (reachTime p d) e)

/-- The deadline of a commit that still runs (R28, R33). -/
def commitDeadline (p : Part) (c : Chan) : Option Time :=
  match (chan p c).marker with
  | none => none
  | some m => if m.action == .commit && m.record.isNone then m.deadline else none

/-- A commit's deadline expires (R33). -/
def commitExpiryRow (p : Part) (c : Chan) : Part :=
  match commitDeadline p c with
  | none => p
  | some d => settle (giveUp (reachTime p d) c)

/-- HOLD_EXPIRY (R58). -/
def execHoldExpiry (tag : Tag) (s : State) : Host.Outcome State Fault Refusal := changed s fun p => holdExpiryRow p tag

/-- COMMIT_DEADLINE_EXPIRY (R33). -/
def execCommitDeadlineExpiry (c : Chan) (s : State) : Host.Outcome State Fault Refusal :=
  changed s fun p => commitExpiryRow p c

end Sys2Proof.Machine
end

