-- ==== Sys2Proof/Machine/Power.lean ====
section
/-! DEFINITION. The freeze (09), the power-on and pin resets, and the soft reset's drain and its end (10.4). -/

namespace Sys2Proof.Machine

/-! ### The freeze (R161 to R168) -/

/-- What the freeze does with one hold entry (R66, R164). -/
def freezeEntry (p : Part) (e : HoldEntry) : Part :=
  if e.isWrite then
    match e.state with
    | .forwarding | .recording => p
    | .copying => if e.failed then discardHeld p e else dismiss p e .refused
    | .waitEpoch | .waitLine | .waitCopy | .waitSpace => dismiss p e .refused
  else p

/-- The writer becomes FROZEN unless it is HALTED; its waiting control requests are withdrawn (R109). -/
def freezeWriter (p : Part) : Part :=
  { p with writer := { p.writer with state := if p.writer.state == .halted then .halted else .frozen, waiting := [] } }

/-- The freeze, taken once, before what it makes due has happened (R109, R126, R161, R164, R167). -/
def freezeBlocks (p : Part) : Part :=
  let p1 := freezeWriter (raiseEvent { p with power := { p.power with frozen := true } } .pfailFrozen)
  let p2 := answerMarkers p1 commitUnplaced .refused .frozen
  let p3 := answerAll p2 (rollbackUnplaced p2 ++ p2.restore.abortQueue) .refused .frozen
  p3.hold.queue.foldl freezeEntry p3

/-- The power-fail monitor takes an assertion: nothing while the FROZEN indication is set (R161). -/
def takeFreeze (p : Part) : Part := if p.power.frozen then p else settle (freezeBlocks p)

/-- At the end of a reset PFAIL is sampled (R163). -/
def samplePfail (p : Part) : Part := if p.power.pfail then takeFreeze p else p

/-! ### Power-on and pin reset -/

/-- A reset ends a frame in progress: the link ignores the clock until chip-select has been high (R174). -/
def FrameState.afterReset : FrameState → FrameState
  | .idle => .idle
  | .ignoring | .frame _ => .ignoring

/-- Every block takes its after-reset state (R3, R19, R69, R72, R90, R112, R128, R159, R163, R174, R176, R191). The PFAIL
level and the time are not the part's; responses already sent stay sent. -/
def resetBlocks (p : Part) : Part :=
  { Part.reset with
    port := { Part.reset.port with responses := p.port.responses },
    link := { Part.reset.link with frame := p.link.frame.afterReset },
    power := { frozen := false, pfail := p.power.pfail },
    now := p.now }

/-- A power-on or pin reset (R159, R163). -/
def hardReset (p : Part) : Part := samplePfail (resetBlocks p)

/-! ### The soft reset (R178 to R182) -/

/-- The intake queue at the start of a drain: every request is answered REFUSED, in queue order (R160). -/
def drainIntake (p : Part) : Part :=
  p.port.intake.foldl (fun q e => respond q e.req.tag .refused []) { p with port := { p.port with intake := [] } }

/-- A hold entry that the drain keeps: in FORWARDING, or a write in RECORDING (R69, R179, log 22). -/
def keptByDrain (e : HoldEntry) : Bool := e.state == .forwarding || (e.isWrite && e.state == .recording)

/-- The hold queue at the start of a drain (R69). -/
def drainHold (p : Part) : Part :=
  (p.hold.queue.filter fun e => !keptByDrain e).foldl (fun q e => dismiss q e .refused) p

/-- The start of the drain, block by block (R179). -/
def drainBlocks (p : Part) : Part :=
  let p1 := drainHold (drainIntake { p with command := { p.command with busy := .softReset } })
  let p2 := { p1 with writer := { p1.writer with waiting := [] } }
  let p3 := answerMarkers p2 commitUnplaced .refused .softReset
  answerAll p3 (rollbackUnplaced p3 ++ p3.restore.abortQueue) .refused .softReset

/-- SOFT_RESET is taken: a further one in a drain has no effect (R178). -/
def softResetTaken (p : Part) : Part := if draining p then p else settle (drainBlocks p)

/-- A placed record whose writes the writer has still to present; one behind a header answered FAILED never will be
(R181). -/
def toPresent (j : List JournalWrite) (w : JournalWrite) : Bool :=
  !w.presented && !j.any fun x => x.isHeader && x.seg == w.seg && x.failed

/-- The conditions that end the drain (R181). -/
def drainDone (p : Part) : Bool :=
  draining p && !p.port.tags.any id && p.arbiter.waiting.isEmpty && p.arbiter.issued.all Option.isNone &&
    !p.writer.journal.any (toPresent p.writer.journal)

/-- A channel after a soft reset: cleared but for its enable and its marker code (R19). -/
def Channel.afterSoftReset (ch : Channel) : Channel := { Channel.cleared with enabled := ch.enabled, code := ch.code }

/-- Every block takes its state after the drain (R182). -/
def drainedBlocks (p : Part) : Part :=
  { port := { Part.reset.port with responses := p.port.responses },
    classifier := { p.classifier with inForce := false, areaWrites := 0 },
    tracker := [],
    hold := { HoldUnit.cleared with limit := p.hold.limit },
    slots := Vector.replicate 4 none,
    writer := { Writer.cleared with retain := p.writer.retain },
    channels := p.channels.map Channel.afterSoftReset,
    restore := RestoreEngine.cleared,
    arbiter := { Arbiter.cleared with mode := p.arbiter.mode },
    link := p.link,
    command := { busy := .none,
                 last := { command := .softReset, result := .done, reason := .none, detail := .none, overlap := 0 } },
    events := { flags := 0, enables := p.events.enables },
    power := { frozen := false, pfail := p.power.pfail },
    now := p.now }

/-- The drain ends (R181, R182, R163). -/
def drainEnds (p : Part) : Part := samplePfail (drainedBlocks p)

end Sys2Proof.Machine
end

