-- ==== Sys2Proof/Machine/Slot.lean ====
section
/-! DEFINITION. The command slot (10.3): each command judged by its own rule, and the choice by code. -/

namespace Sys2Proof.Machine

/-- A command that ends at once is recorded DONE (R177). -/
def commandDone (p : Part) (c : CommandName) : Part := setResult p c .done .none

/-- A command other than SOFT_RESET is refused with BUSY while one is in progress; else its own rule judges it (R177). -/
def unlessBusy (p : Part) (c : CommandName) (judge : Part → Part) : Part :=
  if p.command.busy == .none then judge p else refuseCommand p c .busy

/-- The geometry check stands before a command proceeds (R16). -/
def withGeometry (p : Part) (c : CommandName) (go : Part → Part) : Part :=
  match geometryCheck p with
  | some x => refuseGeometry p c x.1 x.2
  | none => go p

/-- RECOVER (R129). -/
def judgeRecover (p : Part) : Part :=
  if p.power.frozen then refuseCommand p .recover .frozen
  else if p.restore.recovery == .unrecovered || p.restore.recovery == .failed then withGeometry p .recover beginRecover
  else refuseCommand p .recover .recoveryState

/-- FORMAT (R130). -/
def judgeFormat (p : Part) : Part :=
  if p.power.frozen then refuseCommand p .format .frozen
  else if p.restore.recovery == .unrecovered then withGeometry p .format beginFormat
  else refuseCommand p .format .recoveryState

/-- A channel at START: enabled, IDLE and not EXHAUSTED, it opens at its current epoch (R21). -/
def startChannel (ch : Channel) : Channel :=
  if ch.enabled && ch.state == .idle && !ch.exhausted then ch.openedEmpty else ch

/-- A START that has passed its checks (R107). -/
def beginService (p : Part) : Part :=
  let p1 := putInForce p
  commandDone { p1 with writer := { p1.writer with state := .running }, channels := p1.channels.map startChannel } .start

/-- START (R107). Where both conditions hold, the first of R107's table gives the reason: the model's choice (log 51). -/
def judgeStart (p : Part) : Part :=
  if p.writer.state != .stopped then refuseCommand p .start .writerState
  else if p.restore.recovery != .ready then refuseCommand p .start .notReady
  else withGeometry p .start beginService

/-- A channel is quiet enough for STOP (R108). -/
def Channel.quiet (ch : Channel) : Bool :=
  match ch.state with
  | .idle => true
  | .opened => ch.records == 0 && !ch.torn && ch.tornRecord.isNone && ch.outstanding == 0
  | .committing | .rollingBack _ => false

/-- STOP (R108, R22). -/
def judgeStop (p : Part) : Part :=
  if p.writer.state != .running && p.writer.state != .suspended then refuseCommand p .stop .writerState
  else if !p.channels.all Channel.quiet then refuseCommand p .stop .channelsBusy
  else if !p.hold.queue.isEmpty then refuseCommand p .stop .recordsInFlight
  else
    commandDone { p with writer := { p.writer with state := .stopped },
                         channels := p.channels.map fun ch => { ch with state := .idle } } .stop

/-- Segment n becomes FREE, and what waits for space is tested (R106, R104). -/
def returnHeld (p : Part) (n : Nat) : Part :=
  settle (commandDone { p with writer := { p.writer with table := p.writer.table.modify n fun e => { e with state := .free } } }
    .returnSegment)

/-- RETURN_SEGMENT n (R106). Where several conditions hold, the first of R106's table gives the reason: the model's choice
(log 51). -/
def judgeReturn (p : Part) (n : Nat) : Part :=
  if !p.classifier.inForce then refuseCommand p .returnSegment .noGeometry
  else if p.classifier.geometry.count.toNat ≤ n then refuseCommand p .returnSegment .segmentRange
  else if !(p.writer.table[n]?).any (fun e => e.state == .held) then refuseCommand p .returnSegment .notHeld
  else returnHeld p n

/-- A write to COMMAND: the code field and the operand field (R175, R177). -/
def commandWritten (p : Part) (v : Word) : Part :=
  match field v 0 3 with
  | 1 => unlessBusy p .recover judgeRecover
  | 2 => unlessBusy p .format judgeFormat
  | 3 => unlessBusy p .start judgeStart
  | 4 => unlessBusy p .stop judgeStop
  | 5 => unlessBusy p .returnSegment fun q => judgeReturn q (field v 3 6)
  | 6 => softResetTaken p
  | _ => refuseCommand p .unknown .unknownCommand

end Sys2Proof.Machine
end

