-- ==== Sys2Proof/Machine/Registers.lean ====
section
/-! DEFINITION. The register window (10.2, 10.5): what every index reads (R173, R175) and what a write to it does (R172). -/

namespace Sys2Proof.Machine

/-! ### Encodings: the position of a value in its list (R175) -/

/-- A yes-or-no field, and the level of PFAIL: yes, set, present and asserted are 1 (R175, R162, log 48). -/
def bit (b : Bool) : Nat := if b then 1 else 0

/-- A present field and the field beside it, 0 when absent (R183; in the report and the rollback status log 46). -/
def presence (o : Option Nat) : Nat × Nat :=
  match o with
  | some n => (1, n)
  | none => (0, 0)

/-- R8.1. -/
def codeOfKind : Kind → Nat
  | .read => 0
  | .write => 1

/-- R149. -/
def codeOfProtocol : ProtocolReason → Nat
  | .none => 0
  | .tagInUse => 1
  | .badLength => 2
  | .blockCrossing => 3

/-- R156. -/
def codeOfMode : ArbiterMode → Nat
  | .fair => 0
  | .engineFirst => 1

/-- R89. -/
def codeOfWriter : WriterState → Nat
  | .stopped => 0
  | .running => 1
  | .suspended => 2
  | .halted => 3
  | .frozen => 4

/-- R89. -/
def codeOfHalt : HaltCause → Nat
  | .none => 0
  | .recordWriteFault => 1
  | .sequenceExhausted => 2

/-- R92. -/
def codeOfSegment : SegState → Nat
  | .free => 0
  | .active => 1
  | .closed => 2
  | .held => 3
  | .excluded => 4

/-- The state and the substate, which reads as QUEUED outside ROLLING_BACK (R18, R184). -/
def codeOfChannel : ChannelState → Nat × Nat
  | .idle => (0, 0)
  | .opened => (1, 0)
  | .committing => (2, 0)
  | .rollingBack .queued => (3, 0)
  | .rollingBack .draining => (3, 1)
  | .rollingBack .restoring => (3, 2)
  | .rollingBack .recording => (3, 3)

/-- R184. -/
def codeOfAction : MarkerAction → Nat
  | .none => 0
  | .commit => 1
  | .abort => 2

/-- R184. -/
def codeOfResult : MarkerResult → Nat
  | .none => 0
  | .pending => 1
  | .done => 2
  | .refused => 3
  | .failed => 4

/-- R184. -/
def codeOfReason : MarkerReason → Nat
  | .none => 0
  | .unknownAction => 1
  | .channelState => 2
  | .epochMismatch => 3
  | .writerHalted => 4
  | .frozen => 5
  | .deadline => 6
  | .softReset => 7
  | .torn => 8
  | .fault => 9

/-- R175, 0x47. -/
def codeOfOutcome : EpochOutcome → Nat
  | .none => 0
  | .committed => 1
  | .aborted => 2

/-- R128. -/
def codeOfRecovery : RecoveryState → Nat
  | .unrecovered => 0
  | .scanning => 1
  | .restoring => 2
  | .rebasing => 3
  | .ready => 4
  | .failed => 5

/-- R132. -/
def codeOfFailure : FailureReason → Nat
  | .none => 0
  | .readFault => 1
  | .noJournal => 2
  | .journalInconsistent => 3
  | .restoreFault => 4
  | .sequenceExhausted => 5
  | .rebaseFault => 6
  | .frozen => 7

/-- R132. -/
def codeOfReport : ReportKind → Nat
  | .none => 0
  | .recover => 1
  | .format => 2

/-- R132. -/
def codeOfReportOutcome : ReportOutcome → Nat
  | .none => 0
  | .done => 1
  | .failed => 2

/-- R176. -/
def codeOfBusy : BusyCommand → Nat
  | .none => 0
  | .recover => 1
  | .format => 2
  | .softReset => 3

/-- R176. -/
def codeOfCommand : CommandName → Nat
  | .none => 0
  | .recover => 1
  | .format => 2
  | .start => 3
  | .stop => 4
  | .returnSegment => 5
  | .softReset => 6
  | .unknown => 7

/-- R175, 0x04. -/
def codeOfCommandResult : CommandResult → Nat
  | .none => 0
  | .done => 1
  | .refused => 2
  | .failed => 3

/-- R176. -/
def codeOfCommandReason : CommandReason → Nat
  | .none => 0
  | .unknownCommand => 1
  | .busy => 2
  | .geometryInvalid => 3
  | .frozen => 4
  | .recoveryState => 5
  | .writerState => 6
  | .notReady => 7
  | .channelsBusy => 8
  | .recordsInFlight => 9
  | .noGeometry => 10
  | .segmentRange => 11
  | .notHeld => 12
  | .readFault => 13
  | .noJournal => 14
  | .journalInconsistent => 15
  | .restoreFault => 16
  | .sequenceExhausted => 17
  | .rebaseFault => 18

/-- R176. -/
def codeOfDetail : GeometryDetail → Nat
  | .none => 0
  | .baseAlign => 1
  | .sizeCode => 2
  | .segmentCount => 3
  | .areaRange => 4
  | .usableSegments => 5
  | .regionOverlap => 6

/-! ### Reads (R173, R175) -/

/-- A count as a register shows it. -/
def shown (n : Nat) : Word := BitVec.ofNat 32 n

/-- The lower part of a value shown in a pair. -/
def lowPart (n : Nat) : Word := BitVec.ofNat 32 n

/-- The upper part of a value shown in a pair. -/
def highPart (n : Nat) : Word := BitVec.ofNat 32 (n / 2 ^ 32)

/-- COMMAND_STATUS (R176). -/
def commandStatus (p : Part) : Word :=
  let l := p.command.last
  packed [(1, bit (p.command.busy != .none)), (2, codeOfBusy p.command.busy), (3, codeOfCommand l.command),
    (2, codeOfCommandResult l.result), (5, codeOfCommandReason l.reason), (3, codeOfDetail l.detail), (4, l.overlap.val)]

/-- PROTOCOL_STATUS (R149). -/
def protocolStatus (p : Part) : Word :=
  packed [(4, p.port.protocol.tag.val), (1, codeOfKind p.port.protocol.kind), (2, codeOfProtocol p.port.protocol.reason)]

/-- WRITER_STATUS (R183). -/
def writerStatus (p : Part) : Word :=
  let w := p.writer
  packed [(3, codeOfWriter w.state), (2, codeOfHalt w.haltCause), (1, (presence w.haltSegment).1),
    (6, (presence w.haltSegment).2), (1, (presence w.active).1), (6, (presence w.active).2), (7, freeCount w),
    (1, bit p.power.frozen), (1, bit p.power.pfail)]

/-- The segment table entry the segment window shows; none when not present (R183). -/
def windowSegment (p : Part) : Option SegEntry := p.writer.table[p.link.segmentIndex.val]?

/-- SEGMENT_STATE (R92, R183). -/
def segmentState (p : Part) : Word :=
  match windowSegment p with
  | none => 0
  | some e => packed [(1, 1), (3, codeOfSegment e.state), (12, e.used), (8, e.lastLen), (4, e.mask.toNat)]

/-- The first sequence the segment window shows (R183). -/
def windowFirst (p : Part) : Seq :=
  match windowSegment p with
  | none => 0
  | some e => e.first

/-- CHANNEL_STATE (R184). -/
def channelState (ch : Channel) : Word :=
  packed [(2, (codeOfChannel ch.state).1), (2, (codeOfChannel ch.state).2), (1, bit ch.exhausted), (1, bit ch.torn),
    (1, bit ch.overflow), (5, ch.outstanding), (2, codeOfAction ch.last.action), (3, codeOfResult ch.last.result),
    (4, codeOfReason ch.last.reason)]

/-- Register k of a channel's five (R184). -/
def channelRegister (ch : Channel) (k : Nat) : Word :=
  match k with
  | 0 => packed [(1, bit ch.enabled)]
  | 1 => ch.code
  | 2 => channelState ch
  | 3 => ch.epoch
  | _ => ch.resolved

/-- Register k of the statistics window, from 0x41 on (R42, R175). -/
def statRegister (ch : Channel) (k : Nat) : Word :=
  let s := ch.summary
  match k with
  | 0 => ch.journaledWrites
  | 1 => ch.records
  | 2 => ch.trackerHits
  | 3 => ch.untrackedSaves
  | 4 => ch.holdExpiries
  | 5 => s.epoch
  | 6 => packed [(2, codeOfOutcome s.outcome), (1, bit s.torn), (1, bit s.overflow), (1, bit s.faulted)]
  | 7 => s.journaledWrites
  | 8 => s.saves
  | 9 => s.trackerHits
  | 10 => s.untrackedSaves
  | 11 => s.holdExpiries
  | 12 => ch.committed
  | _ => ch.aborted

/-- RECOVERY_STATUS (R128). -/
def recoveryStatus (p : Part) : Word :=
  let seg := presence (recoverySegment p)
  packed [(3, codeOfRecovery p.restore.recovery), (3, codeOfFailure p.restore.lastFailure), (1, seg.1), (6, seg.2)]

/-- The line where a failure arose, 0 when absent (R185). -/
def reportLine (p : Part) : Nat :=
  match p.restore.report.faultLine with
  | some a => a.toNat
  | none => 0

/-- Register k of the report's global part, from 0x52 on (R185). A fault sequence that is absent shows as 0 (log 46). -/
def reportGlobal (p : Part) (k : Nat) : Word :=
  let r := p.restore.report
  let t := p.restore.tables
  let fs := presence r.faultSegment
  let ss := presence r.secondSegment
  match k with
  | 0 => packed [(2, codeOfReport r.kind), (2, codeOfReportOutcome r.outcome), (3, codeOfFailure r.reason)]
  | 1 => packed [(1, fs.1), (6, fs.2), (1, ss.1), (6, ss.2)]
  | 2 => lowPart (r.faultSeq.getD 0)
  | 3 => highPart (r.faultSeq.getD 0)
  | 4 => lowPart (reportLine p)
  | 5 => highPart (reportLine p)
  | 6 => packed [(7, t.validHeaders), (7, t.usedHeaders)]
  | 7 => lowPart t.highestSeq
  | 8 => highPart t.highestSeq
  | 9 => lowPart r.newFirst
  | _ => highPart r.newFirst

/-- Register k of the report's part for a channel, from 0x5D on (R185). The open epoch's 33 bits do not fit a register:
its bit 31 is not shown (log 19). What is absent shows as 0 (log 46). -/
def reportChannel (p : Part) (c : Chan) (k : Nat) : Word :=
  let r := getAt p.restore.report.channels c
  let e := (getAt p.restore.tables.channels c).lastEnd
  match k with
  | 0 => r.resolved
  | 1 =>
    match r.openEpoch with
    | none => 0
    | some x => packed [(1, 1), (32, x.toNat)]
  | 2 => packed [(1, bit r.tornFound), (31, r.epochsRestored)]
  | 3 => shown r.restored
  | 4 => shown r.skipped
  | 5 =>
    match e with
    | none => 0
    | some x => packed [(1, 1), (1, bit x.isAbort), (1, bit x.torn), (1, bit x.fault), (1, bit x.overflowed)]
  | 6 =>
    match e with
    | none => 0
    | some x => x.epoch
  | _ =>
    match e with
    | none => 0
    | some x => x.undoCount

/-- Register k of the rollback status, from 0x65 on (R185). -/
def rollbackRegister (p : Part) (k : Nat) : Word :=
  let s := p.restore.status
  let c := presence (s.channel.map fun x => x.val)
  let g := presence s.cursorSegment
  match k with
  | 0 => packed [(1, c.1), (2, c.2), (1, g.1), (6, g.2)]
  | 1 => shown s.restored
  | _ => shown s.skipped

/-- EVENT_STATUS: the flags and the two summaries (R187). -/
def eventStatus (p : Part) : Word :=
  packed [(18, p.events.flags.toNat), (12, 0), (1, bit (normalSummary p)), (1, bit (abnormalSummary p))]

/-- What an index reads (R173, R175). An unmapped index and a write-only register read as 0. -/
def readRegister (p : Part) (index : BitVec 7) : Word :=
  let i := index.toNat
  let g := p.classifier.geometry
  let e := getAt p.classifier.regions p.classifier.regionIndex
  match i with
  | 0x00 => Config.idValue
  | 0x01 => packed [(1, codeOfMode p.arbiter.mode), (1, bit p.writer.retain)]
  | 0x02 => packed [(16, p.hold.limit.toNat)]
  | 0x04 => commandStatus p
  | 0x05 => protocolStatus p
  | 0x06 => p.classifier.areaWrites
  | 0x07 => packed [(4, p.hold.queue.length), (11, p.tracker.length)]
  | 0x08 => packed [(24, g.base.toNat)]
  | 0x09 => packed [(3, g.sizeCode.toNat), (7, g.count.toNat)]
  | 0x0A => g.identity
  | 0x0B => g.exclude.extractLsb' 0 32
  | 0x0C => g.exclude.extractLsb' 32 32
  | 0x10 => packed [(4, p.classifier.regionIndex.val)]
  | 0x11 => packed [(28, e.base.toNat)]
  | 0x12 => packed [(28, e.limit.toNat)]
  | 0x13 => packed [(1, bit e.enabled), (3, codeOfClass e.cls), (2, e.channel.val)]
  | 0x18 => writerStatus p
  | 0x19 => lowPart p.writer.frontier
  | 0x1A => highPart p.writer.frontier
  | 0x1B => lowPart p.writer.next
  | 0x1C => highPart p.writer.next
  | 0x20 => packed [(6, p.link.segmentIndex.val)]
  | 0x21 => segmentState p
  | 0x22 => lowPart (windowFirst p)
  | 0x23 => highPart (windowFirst p)
  | 0x40 => packed [(2, p.link.statSelect.val)]
  | 0x50 => recoveryStatus p
  | 0x51 => packed [(2, p.link.reportSelect.val)]
  | 0x70 => eventStatus p
  | 0x71 => packed [(18, p.events.enables.toNat)]
  | _ =>
    if 0x28 ≤ i ∧ i ≤ 0x3B then channelRegister (chan p (Fin.ofNat 4 ((i - 0x28) / 5))) ((i - 0x28) % 5)
    else if 0x41 ≤ i ∧ i ≤ 0x4E then statRegister (chan p p.link.statSelect) (i - 0x41)
    else if 0x52 ≤ i ∧ i ≤ 0x5C then reportGlobal p (i - 0x52)
    else if 0x5D ≤ i ∧ i ≤ 0x64 then reportChannel p p.link.reportSelect (i - 0x5D)
    else if 0x65 ≤ i ∧ i ≤ 0x67 then rollbackRegister p (i - 0x65)
    else 0

/-! ### Writes (R14, R20, R172, R188, R189) -/

/-- A configuration write or a marker code write is refused (R14, R20). -/
def refuseConfig (p : Part) : Part := raiseEvent p .configRefused

/-- Configuration writes are open: the writer is STOPPED and no command is BUSY (R14). -/
def configOpen (p : Part) : Bool := p.writer.state == .stopped && p.command.busy == .none

/-- A journal geometry register may be written (R14, R15). -/
def geometryOpen (p : Part) : Bool := configOpen p && !p.classifier.inForce

/-- The selected region entry, changed (R2). -/
def modRegion (p : Part) (f : RegionEntry → RegionEntry) : Part :=
  let i := p.classifier.regionIndex
  { p with classifier := { p.classifier with
    regions := setAt p.classifier.regions i (f (getAt p.classifier.regions i)) } }

/-- The geometry registers, changed. -/
def modGeometry (p : Part) (f : Geometry → Geometry) : Part :=
  { p with classifier := { p.classifier with geometry := f p.classifier.geometry } }

/-- A write to a register of the region window (R2). -/
def writeRegion (p : Part) (r : RegionReg) (v : Word) : Part :=
  if configOpen p then
    match r with
    | .base => modRegion p fun e => { e with base := v.extractLsb' 0 28 }
    | .limit => modRegion p fun e => { e with limit := v.extractLsb' 0 28 }
    | .control =>
      match classOfCode (field v 1 3) with
      | none => refuseConfig p
      | some k => modRegion p fun e =>
        { e with enabled := v.getLsbD 0, cls := k, channel := fieldFin v 4 2 4 (by decide) }
  else refuseConfig p

/-- A write to a register of the configuration group outside the region window (R14). -/
def writeConfigGroup (p : Part) (r : ConfigReg) (v : Word) : Part :=
  match r with
  | .channelControl c => if configOpen p then modChan p c fun ch => { ch with enabled := v.getLsbD 0 } else refuseConfig p
  | .journalBase => if geometryOpen p then modGeometry p fun g => { g with base := v.extractLsb' 0 24 } else refuseConfig p
  | .journalGeometry =>
    if geometryOpen p then modGeometry p fun g => { g with sizeCode := v.extractLsb' 0 3, count := v.extractLsb' 3 7 }
    else refuseConfig p
  | .journalId => if geometryOpen p then modGeometry p fun g => { g with identity := v } else refuseConfig p
  | .excludeLo =>
    if geometryOpen p then modGeometry p fun g => { g with exclude := g.exclude.extractLsb' 32 32 ++ v } else refuseConfig p
  | .excludeHi =>
    if geometryOpen p then modGeometry p fun g => { g with exclude := v ++ g.exclude.extractLsb' 0 32 } else refuseConfig p

/-- A write to a channel's marker code (R20). -/
def writeMarkerCode (p : Part) (c : Chan) (v : Word) : Part :=
  if (chan p c).state == .idle then modChan p c fun ch => { ch with code := v } else refuseConfig p

/-- A write to EVENT_CLEAR (R188). -/
def clearEvents (p : Part) (v : Word) : Part :=
  { p with events := { p.events with flags := p.events.flags &&& ~~~ v.extractLsb' 0 18 } }

/-- A write to EVENT_SET (R188). -/
def setEvents (p : Part) (v : Word) : Part :=
  { p with events := { p.events with flags := p.events.flags ||| v.extractLsb' 0 18 } }

/-- A write to EVENT_ENABLE (R189). -/
def enableEvents (p : Part) (v : Word) : Part := { p with events := { p.events with enables := v.extractLsb' 0 18 } }

/-- A write to CONFIG (R105, R156). -/
def writeConfig (p : Part) (v : Word) : Part :=
  { p with arbiter := { p.arbiter with mode := if v.getLsbD 0 then .engineFirst else .fair },
           writer := { p.writer with retain := v.getLsbD 1 } }

/-- A write to a channel's five registers; three of them are read-only (R172, R184). -/
def writeChannelRegister (p : Part) (c : Chan) (k : Nat) (v : Word) : Part :=
  match k with
  | 0 => writeConfigGroup p (.channelControl c) v
  | 1 => writeMarkerCode p c v
  | _ => p

/-- What a write to an index does, by the rule of the register it reaches; an unmapped index and a read-only register
ignore it (R172). -/
def writeRegister (p : Part) (index : BitVec 7) (v : Word) : Part :=
  let i := index.toNat
  match i with
  | 0x01 => writeConfig p v
  | 0x02 => { p with hold := { p.hold with limit := v.extractLsb' 0 16 } }
  | 0x03 => commandWritten p v
  | 0x08 => writeConfigGroup p .journalBase v
  | 0x09 => writeConfigGroup p .journalGeometry v
  | 0x0A => writeConfigGroup p .journalId v
  | 0x0B => writeConfigGroup p .excludeLo v
  | 0x0C => writeConfigGroup p .excludeHi v
  | 0x10 => { p with classifier := { p.classifier with regionIndex := fieldFin v 0 4 16 (by decide) } }
  | 0x11 => writeRegion p .base v
  | 0x12 => writeRegion p .limit v
  | 0x13 => writeRegion p .control v
  | 0x20 => { p with link := { p.link with segmentIndex := fieldFin v 0 6 64 (by decide) } }
  | 0x40 => { p with link := { p.link with statSelect := fieldFin v 0 2 4 (by decide) } }
  | 0x51 => { p with link := { p.link with reportSelect := fieldFin v 0 2 4 (by decide) } }
  | 0x71 => enableEvents p v
  | 0x72 => clearEvents p v
  | 0x73 => setEvents p v
  | _ =>
    if 0x28 ≤ i ∧ i ≤ 0x3B then writeChannelRegister p (Fin.ofNat 4 ((i - 0x28) / 5)) ((i - 0x28) % 5) v else p

/-! ### Framing (R171 to R174) -/

/-- The index of a region register. -/
def regionRegIndex : RegionReg → BitVec 7
  | .base => 0x11
  | .limit => 0x12
  | .control => 0x13

/-- The index of a configuration-group register. -/
def configRegIndex : ConfigReg → BitVec 7
  | .journalBase => 0x08
  | .journalGeometry => 0x09
  | .journalId => 0x0A
  | .excludeLo => 0x0B
  | .excludeHi => 0x0C
  | .channelControl c => 0x28 + 5 * BitVec.ofNat 7 c.val

/-- The index of a channel's marker code register. -/
def markerCodeIndex (c : Chan) : BitVec 7 := 0x29 + 5 * BitVec.ofNat 7 c.val

/-- The index is that of a _LO register of a pair (R173, R175). -/
def isPairLo (index : BitVec 7) : Bool := pairLoIndexes.contains index

/-- A register is sampled in a read frame: a value goes to the data output, and a _LO register captures the upper part of
its own value (R173). -/
def sampledAs (p : Part) (index : BitVec 7) (value : Word) : Part :=
  let capture := if isPairLo index then some (readRegister p (index + 1)) else none
  { p with link := { p.link with frame := .frame { isWrite := false, index := index, capture := capture },
                                 sample := value } }

/-- A register is sampled with its own value (R173). -/
def sampled (p : Part) (index : BitVec 7) : Part := sampledAs p index (readRegister p index)

/-- What the next group of a read frame sends: the captured upper part when it is the _HI of the _LO just sampled, else
the register's own value at its sample (R173). -/
def nextSample (p : Part) (f : Frame) : Word := f.capture.getD (readRegister p (f.index + 1))

/-- A register group with the value `v` completes. In a write frame it goes to the frame's index, and the index advances:
where that is the row's own index the row's effect `act` is what the write does, and any other register takes the value by
its own rule (R171, R172, log 4). In a read frame the group writes nothing, and the register after it is sampled (R173). With
no frame open chip-select is high, and a link that ignores the clock carries no group (R171, R174). -/
def groupTaken (p : Part) (index : BitVec 7) (v : Word) (act : Part → Part) : Part :=
  match p.link.frame with
  | .idle | .ignoring => p
  | .frame f =>
    if f.isWrite then
      let q := if f.index = index then act p else writeRegister p f.index v
      { q with link := { q.link with frame := .frame { f with index := f.index + 1 } } }
    else sampledAs p (f.index + 1) (nextSample p f)

/-- The first byte of a frame completes, the command byte. Every later byte of a frame belongs to a register group, so one
in an open frame is no command byte (R171, log 32). -/
def commandByteTaken (p : Part) (b : Byte) : Part :=
  match p.link.frame with
  | .ignoring | .frame _ => p
  | .idle =>
    if b.getLsbD 7 then
      { p with link := { p.link with frame := .frame { isWrite := true, index := b.extractLsb' 0 7, capture := none },
                                     sample := 0 } }
    else sampled p (b.extractLsb' 0 7)

/-- A _LO register is sampled in a read frame as the group before it completes (R173). The first register of a frame has
been sampled with the command byte, and no register is sampled out of the frame's order (log 5). -/
def pairLoSampled (p : Part) (index : BitVec 7) : Part :=
  match p.link.frame with
  | .idle | .ignoring => p
  | .frame f => if !f.isWrite && f.index + 1 == index then sampled p index else p

/-- Chip-select goes high: the frame and its capture end, a trailing part of a group is discarded, and a link that
ignored the clock regains its footing (R172, R173, R174). -/
def frameEnded (p : Part) : Part := { p with link := { p.link with frame := .idle, sample := 0 } }

end Sys2Proof.Machine
end

