-- ==== Sys2Proof/Machine/LinkRows.lean ====
section
/-! DEFINITION. The rows of the resets and PFAIL (09), of the command slot (10.3), and of the management link (10.1). A
command is a write to COMMAND, so it is a register group at index 0x03. -/

namespace Sys2Proof.Machine

/-! ### Resets and PFAIL -/

/-- POWER_ON_RESET (R159, R163). -/
def execPowerOnReset (s : State) : Host.Outcome State Fault Refusal := changed s hardReset

/-- PIN_RESET (R159, R163). -/
def execPinReset (s : State) : Host.Outcome State Fault Refusal := changed s hardReset

/-- PFAIL_ASSERTION (R161). -/
def execPfailAssertion (s : State) : Host.Outcome State Fault Refusal :=
  changed s fun p => takeFreeze { p with power := { p.power with pfail := true } }

/-- PFAIL_NEGATION: nothing but the level shown changes (R162). -/
def execPfailNegation (s : State) : Host.Outcome State Fault Refusal :=
  changed s fun p => { p with power := { p.power with pfail := false } }

/-- DRAIN_END: the drain ends when its conditions hold (R181, R182); otherwise it goes on (log 2, log 39). -/
def execDrainEnd (s : State) : Host.Outcome State Fault Refusal :=
  changed s fun p => if drainDone p then drainEnds p else p

/-! ### The command slot -/

/-- The value written to COMMAND: the code and the operand (R175). Bits that the row gives no value are 0 (log 4). -/
def commandValue (code operand : Nat) : Word := packed [(3, code), (6, operand)]

/-- A group of a command: COMMAND's index and the command's value. -/
def commandGroup (p : Part) (code operand : Nat) (act : Part → Part) : Part :=
  groupTaken p 0x03 (commandValue code operand) act

/-- RECOVER (R129, R177). -/
def execRecover (s : State) : Host.Outcome State Fault Refusal :=
  changed s fun p => commandGroup p 1 0 fun q => unlessBusy q .recover judgeRecover

/-- FORMAT (R130, R177). -/
def execFormat (s : State) : Host.Outcome State Fault Refusal :=
  changed s fun p => commandGroup p 2 0 fun q => unlessBusy q .format judgeFormat

/-- START (R107, R177). -/
def execStart (s : State) : Host.Outcome State Fault Refusal :=
  changed s fun p => commandGroup p 3 0 fun q => unlessBusy q .start judgeStart

/-- STOP (R108, R177). -/
def execStop (s : State) : Host.Outcome State Fault Refusal :=
  changed s fun p => commandGroup p 4 0 fun q => unlessBusy q .stop judgeStop

/-- RETURN_SEGMENT n (R106, R177). -/
def execReturnSegment (n : Fin 64) (s : State) : Host.Outcome State Fault Refusal :=
  changed s fun p => commandGroup p 5 n.val fun q => unlessBusy q .returnSegment fun u => judgeReturn u n.val

/-- SOFT_RESET (R178). -/
def execSoftReset (s : State) : Host.Outcome State Fault Refusal :=
  changed s fun p => commandGroup p 6 0 softResetTaken

/-- UNKNOWN_COMMAND: a COMMAND write of a code that names none (R177). -/
def execUnknownCommand (code : BitVec 3) (s : State) : Host.Outcome State Fault Refusal :=
  changed s fun p => commandGroup p code.toNat 0 fun q => commandWritten q (commandValue code.toNat 0)

/-! ### Register groups -/

/-- REGION_ENTRY_WRITE (R2). -/
def execRegionEntryWrite (r : RegionReg) (v : Word) (s : State) : Host.Outcome State Fault Refusal :=
  changed s fun p => groupTaken p (regionRegIndex r) v fun q => writeRegion q r v

/-- CONFIG_GROUP_WRITE (R14). -/
def execConfigGroupWrite (r : ConfigReg) (v : Word) (s : State) : Host.Outcome State Fault Refusal :=
  changed s fun p => groupTaken p (configRegIndex r) v fun q => writeConfigGroup q r v

/-- MARKER_CODE_WRITE (R20). -/
def execMarkerCodeWrite (c : Chan) (v : Word) (s : State) : Host.Outcome State Fault Refusal :=
  changed s fun p => groupTaken p (markerCodeIndex c) v fun q => writeMarkerCode q c v

/-- EVENT_CLEAR (R188). -/
def execEventClear (v : Word) (s : State) : Host.Outcome State Fault Refusal :=
  changed s fun p => groupTaken p 0x72 v fun q => clearEvents q v

/-- EVENT_SET (R188). -/
def execEventSet (v : Word) (s : State) : Host.Outcome State Fault Refusal :=
  changed s fun p => groupTaken p 0x73 v fun q => setEvents q v

/-- EVENT_ENABLE (R189). -/
def execEventEnable (v : Word) (s : State) : Host.Outcome State Fault Refusal :=
  changed s fun p => groupTaken p 0x71 v fun q => enableEvents q v

/-- REGISTER_WRITE (R172). -/
def execRegisterWrite (index : BitVec 7) (v : Word) (s : State) : Host.Outcome State Fault Refusal :=
  changed s fun p => groupTaken p index v fun q => writeRegister q index v

/-! ### Framing -/

/-- PAIR_LO_READ (R173). An index that is no _LO register is none of the row's (log 2). -/
def execPairLoRead (index : BitVec 7) (s : State) : Host.Outcome State Fault Refusal :=
  changed s fun p => if isPairLo index then pairLoSampled p index else p

/-- COMMAND_BYTE (R171). -/
def execCommandByte (b : Byte) (s : State) : Host.Outcome State Fault Refusal := changed s fun p => commandByteTaken p b

/-- FRAME_END: the trailing bytes of a group cut short are discarded (R172). -/
def execFrameEnd (_trailing : List Byte) (s : State) : Host.Outcome State Fault Refusal := changed s frameEnded

end Sys2Proof.Machine
end

