-- ==== Sys2Proof/Machine/Dispatch.lean ====
section
/-! DEFINITION. What each command does to everything but the queue: one arm per constructor, each a call of its meaning. -/

namespace Sys2Proof.Machine

open Sys2Proof

/-- The effect of a command. -/
def exec (i : Instr) (s : State) : Host.Outcome State Fault Refusal :=
  match i with
  | .powerOnReset => Sys2Proof.Machine.execPowerOnReset s
  | .pinReset => Sys2Proof.Machine.execPinReset s
  | .pfailAssertion => Sys2Proof.Machine.execPfailAssertion s
  | .pfailNegation => Sys2Proof.Machine.execPfailNegation s
  | .upstreamRequest r => Sys2Proof.Machine.execUpstreamRequest r s
  | .classifyRequest => Sys2Proof.Machine.execClassifyRequest s
  | .arbiterTurn t => Sys2Proof.Machine.execArbiterTurn t s
  | .ptAnswerDone t data => Sys2Proof.Machine.execPtAnswerDone t data s
  | .ptAnswerFailed t => Sys2Proof.Machine.execPtAnswerFailed t s
  | .copyReadDone t data => Sys2Proof.Machine.execCopyReadDone t data s
  | .copyReadFailed t => Sys2Proof.Machine.execCopyReadFailed t s
  | .recordWriteDone t => Sys2Proof.Machine.execRecordWriteDone t s
  | .recordWriteFailed t => Sys2Proof.Machine.execRecordWriteFailed t s
  | .rollbackHeaderReadAnswered t a => Sys2Proof.Machine.execRollbackHeaderReadAnswered t a s
  | .rollbackPayloadReadAnswered t a => Sys2Proof.Machine.execRollbackPayloadReadAnswered t a s
  | .rollbackRestoreWriteAnswered t a => Sys2Proof.Machine.execRollbackRestoreWriteAnswered t a s
  | .scanReadAnswered t a => Sys2Proof.Machine.execScanReadAnswered t a s
  | .recoveryRestoreReadAnswered t a => Sys2Proof.Machine.execRecoveryRestoreReadAnswered t a s
  | .recoveryRestoreWriteAnswered t a => Sys2Proof.Machine.execRecoveryRestoreWriteAnswered t a s
  | .formatHeaderWriteAnswered t a => Sys2Proof.Machine.execFormatHeaderWriteAnswered t a s
  | .rebaseHeaderWriteAnswered t a => Sys2Proof.Machine.execRebaseHeaderWriteAnswered t a s
  | .staleDownstreamAnswer t => Sys2Proof.Machine.execStaleDownstreamAnswer t s
  | .holdExpiry tag => Sys2Proof.Machine.execHoldExpiry tag s
  | .commitDeadlineExpiry c => Sys2Proof.Machine.execCommitDeadlineExpiry c s
  | .recover => Sys2Proof.Machine.execRecover s
  | .format => Sys2Proof.Machine.execFormat s
  | .start => Sys2Proof.Machine.execStart s
  | .stop => Sys2Proof.Machine.execStop s
  | .returnSegment n => Sys2Proof.Machine.execReturnSegment n s
  | .softReset => Sys2Proof.Machine.execSoftReset s
  | .unknownCommand code => Sys2Proof.Machine.execUnknownCommand code s
  | .drainEnd => Sys2Proof.Machine.execDrainEnd s
  | .regionEntryWrite r v => Sys2Proof.Machine.execRegionEntryWrite r v s
  | .configGroupWrite r v => Sys2Proof.Machine.execConfigGroupWrite r v s
  | .markerCodeWrite c v => Sys2Proof.Machine.execMarkerCodeWrite c v s
  | .eventClear v => Sys2Proof.Machine.execEventClear v s
  | .eventSet v => Sys2Proof.Machine.execEventSet v s
  | .eventEnable v => Sys2Proof.Machine.execEventEnable v s
  | .pairLoRead index => Sys2Proof.Machine.execPairLoRead index s
  | .registerWrite index v => Sys2Proof.Machine.execRegisterWrite index v s
  | .commandByte b => Sys2Proof.Machine.execCommandByte b s
  | .frameEnd trailing => Sys2Proof.Machine.execFrameEnd trailing s

end Sys2Proof.Machine
end

