-- ==== Sys2Proof/Machine/Step.lean ====
section
/-! DEFINITION. One step of the block: the command at the front of the queue is taken and carried out; on an empty queue
one microsecond passes (log 1). -/

namespace Sys2Proof.Machine

/-- The part a microsecond later (00, Times). -/
def Part.ticked (p : Part) : Part := { p with now := p.now + 1 }

/-- One step. -/
def step (s : State) : Host.Outcome State Fault Refusal :=
  match s.pending with
  | [] => .next { s with part := s.part.ticked }
  | c :: rest => exec c { s with pending := rest }

/-- The state with the command that a word spells at the front of its queue; the table gives no row bits, so no word
spells one and the state is unchanged. -/
def State.withFetchWord (s : State) (nbits w : Nat) : State :=
  match decodeTableWord nbits w with
  | some c => { s with pending := c :: s.pending }
  | none => s

end Sys2Proof.Machine
end

