-- ==== Sys2Proof/Safety.lean ====
section
/-! DEFINITION. What a sound part is, and the conditions that the statements about it name: the part at rest, a link that
writes the next register group to an index. -/

namespace Sys2Proof.Machine

/-- The queues are within their capacities (R46, R51, R150). -/
def Part.Fits (p : Part) : Prop :=
  p.port.intake.length ≤ Config.intakeDepth ∧ p.hold.queue.length ≤ Config.holdDepth ∧
    p.tracker.length ≤ Config.trackerDepth

/-- While the FROZEN indication is set the writer is FROZEN or HALTED (R109, R161). -/
def Part.FreezeHolds (p : Part) : Prop :=
  p.power.frozen = true → p.writer.state = .frozen ∨ p.writer.state = .halted

/-- The invariant of the part: capacities, and a freeze that holds. -/
def Part.Sound (p : Part) : Prop := p.Fits ∧ p.FreezeHolds

/-- No internal event is due. -/
def Part.AtRest (p : Part) : Prop := internal p = none

/-- The next register group that completes is a write to an index: the link is in a write frame that has come to that
index (R171). -/
def Link.writesAt (l : Link) (index : BitVec 7) : Bool :=
  match l.frame with
  | .idle | .ignoring => false
  | .frame f => f.isWrite && f.index == index

/-- The link after a register group: in a write frame the index has advanced (R171, R172). -/
def Link.afterGroup (l : Link) : Link :=
  match l.frame with
  | .idle | .ignoring => l
  | .frame f => if f.isWrite then { l with frame := .frame { f with index := f.index + 1 } } else l

/-- The last result of a command refused for a reason (R177). -/
def refusedResult (c : CommandName) (why : CommandReason) : LastResult :=
  { command := c, result := .refused, reason := why, detail := .none, overlap := 0 }

/-- The last result of a command that ended DONE (R177). -/
def doneResult (c : CommandName) : LastResult :=
  { command := c, result := .done, reason := .none, detail := .none, overlap := 0 }

end Sys2Proof.Machine
end

