-- ==== Sys2Proof/Certificates/Slice0/Obligations.lean ====
section
/-! DEFINITION. The statements about the EJ-420 for the provers. A state is written ⟨p, w⟩: the part and the queue behind
the command. -/

section

open Sys2Proof Sys2Proof.Machine

/-! ### The step -/

/-- A step takes the command at the front of the queue and answers what its meaning answers on the queue's rest. -/
def Obligations.StepRunsFront : Prop :=
  ∀ (c : Instr) (rest : List Instr) (s : State), s.pending = c :: rest → step s = exec c { s with pending := rest }

/-- On an empty queue one microsecond passes and nothing else changes: the model's choice (log 1). -/
def Obligations.IdleStepLetsTimePass : Prop :=
  ∀ s : State, s.pending = [] → step s = .next { s with part := { s.part with now := s.part.now + 1 } }

/-- Every command answers a next state and leaves the queue alone. A row whose event cannot happen in the state it meets
answers a next state too: the model's choice (log 2). -/
def Obligations.EveryCommandAnswersNext : Prop :=
  ∀ (c : Instr) (s : State), ∃ p : Part, exec c s = .next ⟨p, s.pending⟩

/-! ### The upstream port -/

/-- R147: a request whose tag is outstanding is discarded, PROTOCOL_ERROR is raised and PROTOCOL_STATUS holds it. -/
def Obligations.TagInUseIsDiscarded : Prop :=
  ∀ (p : Part) (w : List Instr) (r : Request),
    p.port.intake.length < 16 → p.command.busy ≠ .softReset → getAt p.port.tags r.tag = true →
    exec (.upstreamRequest r) ⟨p, w⟩ =
      .next ⟨{ p with port := { p.port with protocol := { tag := r.tag, kind := r.kind, reason := .tagInUse } },
                      events := { p.events with flags := p.events.flags ||| eventMask .protocolError } }, w⟩

/-- R148: a request with a free tag and a bad length, or one that crosses a block boundary, is answered REFUSED at the
port with the reason of the first condition that holds; one that meets neither condition joins the intake queue, whatever
its byte enables. -/
def Obligations.MalformedRequestIsRefused : Prop :=
  ∀ (p : Part) (w : List Instr) (r : Request),
    p.port.intake.length < 16 → p.command.busy ≠ .softReset → getAt p.port.tags r.tag = false →
    ((r.len = 0 ∨ 256 < r.len ∨ r.addr.toNat / 256 ≠ (r.addr.toNat + r.len - 1) / 256) →
      exec (.upstreamRequest r) ⟨p, w⟩ =
        .next ⟨{ p with
          port := { p.port with
            tags := setAt p.port.tags r.tag false,
            protocol := { tag := r.tag, kind := r.kind,
                          reason := if r.len = 0 ∨ 256 < r.len then .badLength else .blockCrossing },
            responses := p.port.responses ++ [{ tag := r.tag, code := .refused, data := [] }] },
          events := { p.events with flags := p.events.flags ||| eventMask .protocolError } }, w⟩) ∧
    (¬ (r.len = 0 ∨ 256 < r.len ∨ r.addr.toNat / 256 ≠ (r.addr.toNat + r.len - 1) / 256) →
      exec (.upstreamRequest r) ⟨p, w⟩ =
        .next ⟨{ p with
          port := { p.port with tags := setAt p.port.tags r.tag true,
                                intake := p.port.intake ++ [{ req := r, cls := none }] } }, w⟩)

/-! ### The classifier -/

/-- R1, R4, R6 to R9, R12: a journal-area read, and a request no class holds back, goes to the arbiter as it was received. R6, R9, R11,
R13: what the classifier answers REFUSED; a write into the journal-area window is counted besides. The window covers the whole of a well-formed area and nothing else;
the matching entry of an address is the enabled one of the lowest index whose pages, from base to limit, cover its page. -/
def Obligations.ClassifierPassesOrRefuses : Prop :=
  (∀ (p : Part) (w : List Instr) (r : Request) (rest : List IntakeEntry),
    p.port.intake = { req := r, cls := none } :: rest →
    ((inWindow p.classifier.geometry r.addr.toNat = true ∧ r.kind = .read) ∨
      (inWindow p.classifier.geometry r.addr.toNat = false ∧
        (lookupRegion p.classifier.regions (pageOf r.addr) = none ∨
          ∃ i, lookupRegion p.classifier.regions (pageOf r.addr) = some i ∧
            ((getAt p.classifier.regions i).cls = .pass ∨
              (r.kind = .read ∧ ((getAt p.classifier.regions i).cls = .guarded ∨
                ((getAt p.classifier.regions i).cls = .marker ∧ p.restore.recovery = .ready))))))) →
    exec .classifyRequest ⟨p, w⟩ =
      .next ⟨{ p with port := { p.port with intake := rest },
                      arbiter := { p.arbiter with waiting := p.arbiter.waiting ++
                        [{ purpose := .plain r.tag, kind := r.kind, addr := r.addr, len := r.len,
                           enables := r.enables, data := r.data }] } }, w⟩) ∧
  (∀ (p : Part) (w : List Instr) (r : Request) (rest : List IntakeEntry),
    p.port.intake = { req := r, cls := none } :: rest →
    (inWindow p.classifier.geometry r.addr.toNat = true → r.kind = .write →
      exec .classifyRequest ⟨p, w⟩ =
        .next ⟨{ p with
          port := { p.port with tags := setAt p.port.tags r.tag false, intake := rest,
                                responses := p.port.responses ++ [{ tag := r.tag, code := .refused, data := [] }] },
          classifier := { p.classifier with areaWrites := countUp p.classifier.areaWrites } }, w⟩) ∧
    (∀ i, inWindow p.classifier.geometry r.addr.toNat = false →
      lookupRegion p.classifier.regions (pageOf r.addr) = some i →
      (((getAt p.classifier.regions i).cls = .guarded ∧ r.kind = .write) ∨
        ((getAt p.classifier.regions i).cls.isProtected = true ∧ p.restore.recovery ≠ .ready) ∨
        (((getAt p.classifier.regions i).cls = .strict ∨ (getAt p.classifier.regions i).cls = .lenient) ∧
          r.kind = .write ∧ (chan p (getAt p.classifier.regions i).channel).state = .idle)) →
      exec .classifyRequest ⟨p, w⟩ =
        .next ⟨{ p with
          port := { p.port with tags := setAt p.port.tags r.tag false, intake := rest,
                                responses := p.port.responses ++ [{ tag := r.tag, code := .refused, data := [] }] } }, w⟩)) ∧
  (∀ (g : Geometry) (a size first : Nat), size = 4096 * 2 ^ g.sizeCode.toNat → first = g.base.toNat * 65536 →
    (inWindow g a = true ↔ g.sizeCode.toNat ≤ 4 ∧ 4 ≤ g.count.toNat ∧ g.count.toNat ≤ 64 ∧
      first + g.count.toNat * size ≤ 2 ^ 40 ∧ first ≤ a ∧ a < first + g.count.toNat * size)) ∧
  (∀ (t : Vector RegionEntry 16) (a : Addr) (covers : Fin 16 → Prop),
    covers = (fun i => (getAt t i).enabled = true ∧ (getAt t i).base.toNat ≤ a.toNat / 4096 ∧
      a.toNat / 4096 ≤ (getAt t i).limit.toNat) →
    (∀ i, lookupRegion t (pageOf a) = some i ↔ covers i ∧ ∀ j, j < i → ¬ covers j) ∧
    (lookupRegion t (pageOf a) = none ↔ ∀ i, ¬ covers i))

/-- A marker candidate that is not recognised goes to memory whole, and MARKER_IGNORED is raised. -/
def Obligations.UnrecognisedMarkerIsForwarded : Prop :=
  ∀ (p : Part) (w : List Instr) (r : Request) (rest : List IntakeEntry) (i : Fin 16),
    p.port.intake = { req := r, cls := none } :: rest →
    inWindow p.classifier.geometry r.addr.toNat = false →
    lookupRegion p.classifier.regions (pageOf r.addr) = some i →
    (getAt p.classifier.regions i).cls = .marker → p.restore.recovery = .ready → r.kind = .write →
    (r.len ≠ 16 ∨ r.addr.toNat % 16 ≠ 0 ∨ r.enables ≠ List.replicate 16 true ∨
      wordAt r.data 0 ≠ (chan p (getAt p.classifier.regions i).channel).code) →
    exec .classifyRequest ⟨p, w⟩ =
      .next ⟨{ p with port := { p.port with intake := rest },
                      arbiter := { p.arbiter with waiting := p.arbiter.waiting ++
                        [{ purpose := .plain r.tag, kind := .write, addr := r.addr, len := r.len,
                           enables := r.enables, data := r.data }] },
                      events := { p.events with flags := p.events.flags ||| eventMask .markerIgnored } }, w⟩

/-- R27: a recognised marker that is not taken is answered at once, by the first condition that holds, and the last marker
result of its channel is set. Nothing else changes in a part at rest; in any other what is due is carried out (log 9). -/
def Obligations.MarkerIsTurnedDown : Prop :=
  ∀ (p q : Part) (w : List Instr) (r : Request) (rest : List IntakeEntry) (i : Fin 16) (c : Chan)
    (code : RespCode) (why : MarkerReason),
    p.port.intake = { req := r, cls := none } :: rest →
    inWindow p.classifier.geometry r.addr.toNat = false →
    lookupRegion p.classifier.regions (pageOf r.addr) = some i →
    (getAt p.classifier.regions i).cls = .marker → (getAt p.classifier.regions i).channel = c →
    p.restore.recovery = .ready → r.kind = .write →
    r.len = 16 → r.addr.toNat % 16 = 0 → r.enables = List.replicate 16 true → wordAt r.data 0 = (chan p c).code →
    (if wordAt r.data 1 ≠ 1 ∧ wordAt r.data 1 ≠ 2 then some (RespCode.refused, MarkerReason.unknownAction)
      else if (chan p c).state ≠ .opened then some (.refused, .channelState)
      else if wordAt r.data 2 ≠ 0 ∧ wordAt r.data 2 ≠ (chan p c).epoch then some (.refused, .epochMismatch)
      else if p.writer.state = .halted then some (.failed, .writerHalted)
      else if p.writer.state = .frozen then some (.refused, .frozen)
      else none) = some (code, why) →
    q = { p with
        port := { p.port with tags := setAt p.port.tags r.tag false, intake := rest,
                              responses := p.port.responses ++ [{ tag := r.tag, code := code, data := [] }] },
        channels := setAt p.channels c { chan p c with
          last := { action := if wordAt r.data 1 = 1 then .commit else if wordAt r.data 1 = 2 then .abort else .none,
                    result := code.asResult, reason := why } } } →
    exec .classifyRequest ⟨p, w⟩ = .next ⟨settle q, w⟩ ∧ (p.AtRest → settle q = q)

/-- R27, R28, R29, R35, R113: a recognised marker that meets none of the table's conditions is taken, with its result PENDING: a
COMMIT marker makes its OPEN channel COMMITTING, with its deadline; an ABORT marker puts it into the abort queue. What that
makes due is carried out in the step (log 9). That the reason beside PENDING is NONE is the model's choice (log 54). -/
def Obligations.MarkerIsTaken : Prop :=
  ∀ (p : Part) (w : List Instr) (r : Request) (rest : List IntakeEntry) (i : Fin 16) (c : Chan),
    p.port.intake = { req := r, cls := none } :: rest →
    inWindow p.classifier.geometry r.addr.toNat = false →
    lookupRegion p.classifier.regions (pageOf r.addr) = some i →
    (getAt p.classifier.regions i).cls = .marker → (getAt p.classifier.regions i).channel = c →
    p.restore.recovery = .ready → r.kind = .write →
    r.len = 16 → r.addr.toNat % 16 = 0 → r.enables = List.replicate 16 true → wordAt r.data 0 = (chan p c).code →
    (chan p c).state = .opened → (wordAt r.data 2 = 0 ∨ wordAt r.data 2 = (chan p c).epoch) →
    p.writer.state ≠ .halted → p.writer.state ≠ .frozen →
    (wordAt r.data 1 = 1 →
      exec .classifyRequest ⟨p, w⟩ =
        .next ⟨settle { p with
          port := { p.port with intake := rest },
          channels := setAt p.channels c { chan p c with
            state := .committing,
            marker := some { tag := r.tag, action := .commit,
                             deadline := if p.hold.limit = 0 then none else some (p.now + p.hold.limit.toNat * 10),
                             record := none },
            last := { action := .commit, result := .pending, reason := .none } } }, w⟩) ∧
    (wordAt r.data 1 = 2 →
      exec .classifyRequest ⟨p, w⟩ =
        .next ⟨settle { p with
          port := { p.port with intake := rest },
          channels := setAt p.channels c { chan p c with
            state := .rollingBack .queued,
            marker := some { tag := r.tag, action := .abort, deadline := none, record := none },
            last := { action := .abort, result := .pending, reason := .none } },
          restore := { p.restore with abortQueue := p.restore.abortQueue ++ [c] } }, w⟩)

/-- R39, R43, R44, R47, R53: a write of an OPEN channel that shares no line with the hold queue, and that changes a line with no
record behind the frontier, joins the queue with its lines looked up: a changed line found in the tracker is DURABLE or
PLACED and counts as a hit, any other is PENDING. The entry is in WAIT_COPY with a PENDING line, else in RECORDING. A request covers every line from that of its first byte to
that of its last, in ascending order; a write changes those in which an enabled byte falls; two requests share a line when both
cover it; a hit is a tracker entry of the line and the channel that has a number. -/
def Obligations.OpenWriteJoinsHold : Prop :=
  (∀ (p : Part) (w : List Instr) (r : Request) (rest : List IntakeEntry) (i : Fin 16) (c : Chan) (ls : List HoldLine),
    p.port.intake = { req := r, cls := none } :: rest →
    inWindow p.classifier.geometry r.addr.toNat = false →
    lookupRegion p.classifier.regions (pageOf r.addr) = some i →
    ((getAt p.classifier.regions i).cls = .strict ∨ (getAt p.classifier.regions i).cls = .lenient) →
    (getAt p.classifier.regions i).channel = c → p.restore.recovery = .ready → r.kind = .write →
    (chan p c).state = .opened → p.writer.state ≠ .halted → p.power.frozen = false →
    sharesHeld p.hold.queue r = false → p.hold.queue.length < 8 →
    (∃ l ∈ coveredLines r, l.changed = true ∧ ∀ n, trackerLookup p.tracker l.line c = some n → p.writer.frontier < n) →
    ls = (coveredLines r).map (fun l =>
      if l.changed then
        { l with sub := match trackerLookup p.tracker l.line c with
            | none => .pending
            | some n => if n ≤ p.writer.frontier then .durable else .placed n }
      else l) →
    exec .classifyRequest ⟨p, w⟩ =
      .next ⟨settle { p with
        port := { p.port with intake := rest },
        channels := setAt p.channels c
          { chan p c with
            journaledWrites := countUp (chan p c).journaledWrites,
            trackerHits := countBy ((coveredLines r).countP fun l => l.changed && (trackerLookup p.tracker l.line c).isSome)
              (chan p c).trackerHits },
        hold := { p.hold with queue := p.hold.queue ++
          [{ req := r, lines := ls, cls := (getAt p.classifier.regions i).cls, channel := c, region := i,
             epoch := some (chan p c).epoch,
             state := if ∃ l ∈ coveredLines r, l.changed = true ∧ trackerLookup p.tracker l.line c = none then .waitCopy
               else .recording,
             deadline := if p.hold.limit = 0 then none else some (p.now + p.hold.limit.toNat * 10),
             failed := false, torn := false }] } }, w⟩) ∧
  (∀ (r : Request) (first last : Nat), first = r.addr.toNat / 64 → last = (r.addr.toNat + (r.len - 1)) / 64 →
    (coveredLines r).length = last + 1 - first ∧
    ∀ k l, (coveredLines r)[k]? = some l →
      l.line = BitVec.ofNat 40 (64 * (first + k)) ∧ l.sub = .pending ∧ l.untracked = false ∧
      (l.changed = true ↔ r.kind = .write ∧ ∃ j, j < r.len ∧ r.enables[j]? = some true ∧
        (r.addr.toNat + j) / 64 = first + k)) ∧
  (∀ (q : List HoldEntry) (r : Request), sharesHeld q r = true ↔ ∃ e ∈ q, requestsShare e.req r = true) ∧
  (∀ a b : Request, requestsShare a b = true ↔
    ∃ n, a.addr.toNat / 64 ≤ n ∧ n ≤ (a.addr.toNat + (a.len - 1)) / 64 ∧
      b.addr.toNat / 64 ≤ n ∧ n ≤ (b.addr.toNat + (b.len - 1)) / 64) ∧
  (∀ (tr : List TrackerEntry) (line : Addr) (c : Chan),
    trackerLookup tr line c = (tr.find? fun x => x.line == line && x.channel == c).bind (·.seq))

/-- R11, R39, R44, R53, R56, R102, R166: a journaled write that waits or is refused. One of a COMMITTING or ROLLING_BACK channel
joins the hold queue in WAIT_EPOCH, with no epoch and uncounted, and one of an OPEN channel that shares a line with the queue
joins in WAIT_LINE. With all 8 entries in use such a write, and a first touch of an OPEN channel that shares no line, stays
at the head of the intake queue, classified; its channel counts a write taken while OPEN, which the mark beside the
classification remembers (log 28). While the writer is HALTED or the FROZEN indication is set the write is answered REFUSED
with no entry; one of an OPEN channel counts. (A write of an IDLE channel the classifier refuses: ClassifierPassesOrRefuses.)
A classified write at the head is taken again when an entry has left: REFUSED while HALTED or FROZEN and where its channel is
IDLE, into WAIT_EPOCH or WAIT_LINE as before, and of an OPEN channel counted unless it was; with every changed line DURABLE it
goes down as a direct write (log 42), else it joins with its lines looked up. It stays at the head while no entry is free. -/
def Obligations.WriteWaits : Prop :=
  (∀ (p : Part) (w : List Instr) (r : Request) (rest : List IntakeEntry) (i : Fin 16) (c : Chan) (x : HoldEntry),
    p.port.intake = { req := r, cls := none } :: rest →
    inWindow p.classifier.geometry r.addr.toNat = false →
    lookupRegion p.classifier.regions (pageOf r.addr) = some i →
    ((getAt p.classifier.regions i).cls = .strict ∨ (getAt p.classifier.regions i).cls = .lenient) →
    (getAt p.classifier.regions i).channel = c → p.restore.recovery = .ready → r.kind = .write →
    x = { req := r, lines := coveredLines r, cls := (getAt p.classifier.regions i).cls, channel := c, region := i,
          epoch := none, state := .waitEpoch,
          deadline := if p.hold.limit = 0 then none else some (p.now + p.hold.limit.toNat * 10),
          failed := false, torn := false } →
    (p.writer.state ≠ .halted → p.power.frozen = false →
      ((chan p c).state = .committing ∨ ∃ s, (chan p c).state = .rollingBack s) →
      (p.hold.queue.length < 8 →
        exec .classifyRequest ⟨p, w⟩ =
          .next ⟨settle { p with port := { p.port with intake := rest },
                                 hold := { p.hold with queue := p.hold.queue ++ [x] } }, w⟩) ∧
      (8 ≤ p.hold.queue.length →
        exec .classifyRequest ⟨p, w⟩ =
          .next ⟨{ p with port := { p.port with intake :=
            { req := r, cls := some { cls := (getAt p.classifier.regions i).cls, channel := c, region := i,
                                      counted := false } } :: rest } }, w⟩)) ∧
    (p.writer.state ≠ .halted → p.power.frozen = false → (chan p c).state = .opened →
      sharesHeld p.hold.queue r = true →
      (p.hold.queue.length < 8 →
        exec .classifyRequest ⟨p, w⟩ =
          .next ⟨settle { p with
            port := { p.port with intake := rest },
            channels := setAt p.channels c { chan p c with journaledWrites := countUp (chan p c).journaledWrites },
            hold := { p.hold with queue := p.hold.queue ++
              [{ x with epoch := some (chan p c).epoch, state := .waitLine }] } }, w⟩) ∧
      (8 ≤ p.hold.queue.length →
        exec .classifyRequest ⟨p, w⟩ =
          .next ⟨{ p with
            port := { p.port with intake :=
              { req := r, cls := some { cls := (getAt p.classifier.regions i).cls, channel := c, region := i,
                                        counted := true } } :: rest },
            channels := setAt p.channels c
              { chan p c with journaledWrites := countUp (chan p c).journaledWrites } }, w⟩)) ∧
    (p.writer.state ≠ .halted → p.power.frozen = false → (chan p c).state = .opened →
      sharesHeld p.hold.queue r = false → 8 ≤ p.hold.queue.length →
      (∃ l ∈ coveredLines r, l.changed = true ∧ ∀ n, trackerLookup p.tracker l.line c = some n → p.writer.frontier < n) →
      exec .classifyRequest ⟨p, w⟩ =
        .next ⟨{ p with
          port := { p.port with intake :=
            { req := r, cls := some { cls := (getAt p.classifier.regions i).cls, channel := c, region := i,
                                      counted := true } } :: rest },
          channels := setAt p.channels c
            { chan p c with journaledWrites := countUp (chan p c).journaledWrites } }, w⟩) ∧
    ((p.writer.state = .halted ∨ p.power.frozen = true) → (chan p c).state ≠ .idle →
      exec .classifyRequest ⟨p, w⟩ =
        .next ⟨settle { p with
          port := { p.port with tags := setAt p.port.tags r.tag false, intake := rest,
                                responses := p.port.responses ++ [{ tag := r.tag, code := .refused, data := [] }] },
          channels := if (chan p c).state = .opened then
              setAt p.channels c { chan p c with journaledWrites := countUp (chan p c).journaledWrites }
            else p.channels }, w⟩)) ∧
  (∀ p : Part, p.hold.headRetry = false → headRetryStep p = none) ∧
  (∀ (p q : Part) (r : Request) (rest : List IntakeEntry) (k : Classification) (ch : Channel) (x : HoldEntry)
    (ls : List HoldLine) (writes hits : Word),
    p.port.intake = { req := r, cls := some k } :: rest → p.hold.headRetry = true → r.kind = .write →
    ch = chan p k.channel →
    q = { p with port := { p.port with intake := rest }, hold := { p.hold with headRetry := false } } →
    x = { req := r, lines := coveredLines r, cls := k.cls, channel := k.channel, region := k.region, epoch := none,
          state := .waitEpoch,
          deadline := if p.hold.limit = 0 then none else some (p.now + p.hold.limit.toNat * 10),
          failed := false, torn := false } →
    writes = (if k.counted = true then ch.journaledWrites else countUp ch.journaledWrites) →
    ls = (coveredLines r).map (fun l =>
      if l.changed then
        { l with sub := match trackerLookup p.tracker l.line k.channel with
            | none => .pending
            | some n => if n ≤ p.writer.frontier then .durable else .placed n }
      else l) →
    hits = countBy ((coveredLines r).countP fun l => l.changed && (trackerLookup p.tracker l.line k.channel).isSome)
      ch.trackerHits →
    ((p.writer.state = .halted ∨ p.power.frozen = true ∨ ch.state = .idle) →
      headRetryStep p = some { q with
        port := { q.port with tags := setAt p.port.tags r.tag false,
                              responses := p.port.responses ++ [{ tag := r.tag, code := .refused, data := [] }] } }) ∧
    (p.writer.state ≠ .halted → p.power.frozen = false →
      ((ch.state = .committing ∨ ∃ s, ch.state = .rollingBack s) → p.hold.queue.length < 8 →
        headRetryStep p = some { q with hold := { q.hold with queue := p.hold.queue ++ [x] } }) ∧
      (ch.state = .opened → sharesHeld p.hold.queue r = true → p.hold.queue.length < 8 →
        headRetryStep p = some { q with
          channels := setAt p.channels k.channel { ch with journaledWrites := writes },
          hold := { q.hold with
            queue := p.hold.queue ++ [{ x with epoch := some ch.epoch, state := .waitLine }] } }) ∧
      (ch.state = .opened → sharesHeld p.hold.queue r = false → (∀ l ∈ ls, l.changed = true → l.sub = .durable) →
        headRetryStep p = some { q with
          channels := setAt p.channels k.channel
            { ch with journaledWrites := writes, trackerHits := hits, outstanding := ch.outstanding + 1 },
          arbiter := { p.arbiter with waiting := p.arbiter.waiting ++
            [{ purpose := .direct r.tag k.channel, kind := .write, addr := r.addr, len := r.len,
               enables := r.enables, data := r.data }] } }) ∧
      (ch.state = .opened → sharesHeld p.hold.queue r = false → (∃ l ∈ ls, l.changed = true ∧ l.sub ≠ .durable) →
        p.hold.queue.length < 8 →
        headRetryStep p = some { q with
          channels := setAt p.channels k.channel { ch with journaledWrites := writes, trackerHits := hits },
          hold := { q.hold with queue := p.hold.queue ++
            [{ x with epoch := some ch.epoch, lines := ls,
                      state := if ∃ l ∈ ls, l.changed = true ∧ l.sub = .pending then .waitCopy else .recording }] } }) ∧
      (((ch.state = .committing ∨ ∃ s, ch.state = .rollingBack s) ∨
          (ch.state = .opened ∧
            (sharesHeld p.hold.queue r = true ∨ ∃ l ∈ ls, l.changed = true ∧ l.sub ≠ .durable))) →
        8 ≤ p.hold.queue.length →
        headRetryStep p = some { p with hold := { p.hold with headRetry := false } })))

/-- R10, R44, R53, R56: a STRICT or LENIENT read goes down at once as a pass-through read; of a ROLLING_BACK channel it joins
the hold queue in WAIT_EPOCH, and one that shares a line with the queue in WAIT_LINE, with no epoch (log 43). With all 8
entries in use such a read stays at the head of the intake queue, classified; taken again once an entry has left, it goes
down without an entry when nothing keeps it any more, joins while something does and an entry is free, and else stays. -/
def Obligations.HeldReadTakesItsPath : Prop :=
  ∀ (p : Part) (w : List Instr) (r : Request) (rest : List IntakeEntry) (i : Fin 16) (c : Chan) (k : Classification)
    (x : HoldEntry) (d : DownReq),
    k = { cls := (getAt p.classifier.regions i).cls, channel := c, region := i, counted := false } →
    x = { req := r, lines := coveredLines r, cls := k.cls, channel := c, region := i, epoch := none, state := .waitLine,
          deadline := if p.hold.limit = 0 then none else some (p.now + p.hold.limit.toNat * 10),
          failed := false, torn := false } →
    d = { purpose := .plain r.tag, kind := .read, addr := r.addr, len := r.len, enables := r.enables, data := r.data } →
    r.kind = .read →
    (p.port.intake = { req := r, cls := none } :: rest →
      inWindow p.classifier.geometry r.addr.toNat = false →
      lookupRegion p.classifier.regions (pageOf r.addr) = some i →
      ((getAt p.classifier.regions i).cls = .strict ∨ (getAt p.classifier.regions i).cls = .lenient) →
      (getAt p.classifier.regions i).channel = c → p.restore.recovery = .ready →
      ((∀ s, (chan p c).state ≠ .rollingBack s) → sharesHeld p.hold.queue r = false →
        exec .classifyRequest ⟨p, w⟩ =
          .next ⟨settle { p with port := { p.port with intake := rest },
                                 arbiter := { p.arbiter with waiting := p.arbiter.waiting ++ [d] } }, w⟩) ∧
      ((∃ s, (chan p c).state = .rollingBack s) → p.hold.queue.length < 8 →
        exec .classifyRequest ⟨p, w⟩ =
          .next ⟨settle { p with port := { p.port with intake := rest },
                                 hold := { p.hold with queue := p.hold.queue ++ [{ x with state := .waitEpoch }] } }, w⟩) ∧
      ((∀ s, (chan p c).state ≠ .rollingBack s) → sharesHeld p.hold.queue r = true → p.hold.queue.length < 8 →
        exec .classifyRequest ⟨p, w⟩ =
          .next ⟨settle { p with port := { p.port with intake := rest },
                                 hold := { p.hold with queue := p.hold.queue ++ [x] } }, w⟩) ∧
      (((∃ s, (chan p c).state = .rollingBack s) ∨ sharesHeld p.hold.queue r = true) → 8 ≤ p.hold.queue.length →
        exec .classifyRequest ⟨p, w⟩ =
          .next ⟨{ p with port := { p.port with intake := { req := r, cls := some k } :: rest } }, w⟩)) ∧
    (p.port.intake = { req := r, cls := some k } :: rest → p.hold.headRetry = true →
      (∀ s, (chan p c).state ≠ .rollingBack s) → sharesHeld p.hold.queue r = false →
      headRetryStep p =
        some { p with port := { p.port with intake := rest },
                      hold := { p.hold with headRetry := false },
                      arbiter := { p.arbiter with waiting := p.arbiter.waiting ++ [d] } }) ∧
    (p.port.intake = { req := r, cls := some k } :: rest → p.hold.headRetry = true →
      ((∃ s, (chan p c).state = .rollingBack s) ∨ sharesHeld p.hold.queue r = true) →
      (p.hold.queue.length < 8 → ∃ st,
        headRetryStep p = some { p with
          port := { p.port with intake := rest },
          hold := { p.hold with headRetry := false, queue := p.hold.queue ++ [{ x with state := st }] } } ∧
        ((∃ s, (chan p c).state = .rollingBack s) → st = .waitEpoch) ∧
        ((∀ s, (chan p c).state ≠ .rollingBack s) → st = .waitLine)) ∧
      (8 ≤ p.hold.queue.length → headRetryStep p = some { p with hold := { p.hold with headRetry := false } }))

/-- R39, R45: a write of an OPEN channel that shares no line with the hold queue, and whose every changed line has a
record behind the frontier, goes down at once and stands in the outstanding count. -/
def Obligations.DirectWriteGoesDown : Prop :=
  ∀ (p : Part) (w : List Instr) (r : Request) (rest : List IntakeEntry) (i : Fin 16) (c : Chan),
    p.port.intake = { req := r, cls := none } :: rest →
    inWindow p.classifier.geometry r.addr.toNat = false →
    lookupRegion p.classifier.regions (pageOf r.addr) = some i →
    ((getAt p.classifier.regions i).cls = .strict ∨ (getAt p.classifier.regions i).cls = .lenient) →
    (getAt p.classifier.regions i).channel = c → p.restore.recovery = .ready → r.kind = .write →
    (chan p c).state = .opened → p.writer.state ≠ .halted → p.power.frozen = false →
    sharesHeld p.hold.queue r = false →
    (∀ l ∈ coveredLines r, l.changed = true → ∃ n, trackerLookup p.tracker l.line c = some n ∧ n ≤ p.writer.frontier) →
    exec .classifyRequest ⟨p, w⟩ =
      .next ⟨settle { p with
        port := { p.port with intake := rest },
        channels := setAt p.channels c
          { chan p c with
            journaledWrites := countUp (chan p c).journaledWrites,
            trackerHits := countBy ((coveredLines r).countP fun l => l.changed) (chan p c).trackerHits,
            outstanding := (chan p c).outstanding + 1 },
        arbiter := { p.arbiter with waiting := p.arbiter.waiting ++
          [{ purpose := .direct r.tag c, kind := .write, addr := r.addr, len := r.len,
             enables := r.enables, data := r.data }] } }, w⟩

/-! ### The arbiter -/

/-- R152, R154 to R156, R168: which side a turn goes to (the engine group while the FROZEN indication is set), and that it issues
that side's head with the free tag. The engine group's head is that of the first waiting requester in the order RW, CR, RS.
R153: a requester's head is its oldest waiting request, eligible when no request handed over before it and still waiting keeps
it back, and so is what a turn issues; a request keeps back one it shares a line with, unless one of the two is a
pass-through read in the journal-area window and the other a write of a record or a header. A transfer of the part's own that
crosses a block boundary is presented as two requests; a read of the part's own carries no data, a write every byte enabled. A
request is a PT, RW, CR or RS one by what it is for. -/
def Obligations.ArbiterTurnIssuesHead : Prop :=
  (∀ (p : Part) (w : List Instr) (t : DTag), getAt p.arbiter.issued t = none →
    (∀ x y, eligibleHead p.classifier.geometry p.arbiter.waiting .pt = some x →
      engineHead p.classifier.geometry p.arbiter.waiting = some y → p.power.frozen = false → p.arbiter.mode = .fair →
      exec (.arbiterTurn t) ⟨p, w⟩ =
        (if p.arbiter.lastTurn = .pt then
          .next ⟨{ p with arbiter := { p.arbiter with waiting := p.arbiter.waiting.eraseIdx y.1,
                                                      issued := setAt p.arbiter.issued t (some y.2),
                                                      lastTurn := .engine } }, w⟩
        else
          .next ⟨{ p with arbiter := { p.arbiter with waiting := p.arbiter.waiting.eraseIdx x.1,
                                                      issued := setAt p.arbiter.issued t (some x.2),
                                                      lastTurn := .pt } }, w⟩)) ∧
    (∀ y, engineHead p.classifier.geometry p.arbiter.waiting = some y →
      (eligibleHead p.classifier.geometry p.arbiter.waiting .pt = none ∨ p.power.frozen = true ∨
        p.arbiter.mode = .engineFirst) →
      exec (.arbiterTurn t) ⟨p, w⟩ =
        .next ⟨{ p with arbiter := { p.arbiter with waiting := p.arbiter.waiting.eraseIdx y.1,
                                                    issued := setAt p.arbiter.issued t (some y.2),
                                                    lastTurn := .engine } }, w⟩) ∧
    (∀ x, eligibleHead p.classifier.geometry p.arbiter.waiting .pt = some x →
      engineHead p.classifier.geometry p.arbiter.waiting = none →
      exec (.arbiterTurn t) ⟨p, w⟩ =
        .next ⟨{ p with arbiter := { p.arbiter with waiting := p.arbiter.waiting.eraseIdx x.1,
                                                    issued := setAt p.arbiter.issued t (some x.2),
                                                    lastTurn := .pt } }, w⟩)) ∧
  (∀ (p : Part) (side : Side) (k : Nat) (r : DownReq), turnChoice p = some (side, k, r) →
    p.arbiter.waiting[k]? = some r ∧
    ∀ j o, j < k → p.arbiter.waiting[j]? = some o →
      o.purpose.requester ≠ r.purpose.requester ∧ holdsBack p.classifier.geometry o r = false) ∧
  (∀ (g : Geometry) (waiting : List DownReq),
    engineHead g waiting =
      match eligibleHead g waiting .rw, eligibleHead g waiting .cr with
      | some x, _ => some x
      | none, some x => some x
      | none, none => eligibleHead g waiting .rs) ∧
  (∀ (g : Geometry) (waiting : List DownReq) (q : Requester) (k : Nat) (r : DownReq),
    eligibleHead g waiting q = some (k, r) ↔
      waiting[k]? = some r ∧ r.purpose.requester = q ∧
        ∀ j o, j < k → waiting[j]? = some o → o.purpose.requester ≠ q ∧ holdsBack g o r = false) ∧
  (∀ (g : Geometry) (o r : DownReq), holdsBack g o r = true ↔
    (∃ n, o.addr.toNat / 64 ≤ n ∧ n ≤ (o.addr.toNat + (o.len - 1)) / 64 ∧
      r.addr.toNat / 64 ≤ n ∧ n ≤ (r.addr.toNat + (r.len - 1)) / 64) ∧
    ¬ (o.purpose.requester = .pt ∧ o.kind = .read ∧ inWindow g o.addr.toNat = true ∧ r.purpose.requester = .rw) ∧
    ¬ (r.purpose.requester = .pt ∧ r.kind = .read ∧ inWindow g r.addr.toNat = true ∧ o.purpose.requester = .rw)) ∧
  (∀ (u : Nat → Purpose) (a len : Nat),
    readPieces u a len =
      if a / 256 = (a + (len - 1)) / 256 then [engineRead (u 0) a len]
      else [engineRead (u 0) a (256 - a % 256), engineRead (u 1) (a + (256 - a % 256)) (len - (256 - a % 256))]) ∧
  (∀ (u : Purpose) (a len : Nat), engineRead u a len =
    { purpose := u, kind := .read, addr := BitVec.ofNat 40 a, len := len, enables := [], data := [] }) ∧
  (∀ (u : Purpose) (a : Nat) (bytes : List Byte), engineWrite u a bytes =
    { purpose := u, kind := .write, addr := BitVec.ofNat 40 a, len := bytes.length,
      enables := bytes.map fun _ => true, data := bytes }) ∧
  (∀ u : Purpose, u.requester = match u with
    | .plain _ | .direct _ _ | .held _ => .pt
    | .record _ | .header _ => .rw
    | .copy _ => .cr
    | .rollback _ | .recovery _ => .rs)

/-! ### Answers to pass-through requests -/

/-- R23, R45, R157, R158: memory's answer to a request that nothing else waits for goes upstream, and so does the answer to a
direct write, which leaves its channel's outstanding count; FAILED raises DATA_FAULT. -/
def Obligations.PassThroughAnswerGoesUpstream : Prop :=
  (∀ (p : Part) (w : List Instr) (t : DTag) (r : DownReq) (tag : Tag) (data : List Byte),
    getAt p.arbiter.issued t = some r → r.purpose = .plain tag →
    exec (.ptAnswerDone t data) ⟨p, w⟩ =
      .next ⟨{ p with
        port := { p.port with tags := setAt p.port.tags tag false,
                              responses := p.port.responses ++
                                [{ tag := tag, code := .done, data := if r.kind = .read then data else [] }] },
        arbiter := { p.arbiter with issued := setAt p.arbiter.issued t none } }, w⟩ ∧
    exec (.ptAnswerFailed t) ⟨p, w⟩ =
      .next ⟨{ p with
        port := { p.port with tags := setAt p.port.tags tag false,
                              responses := p.port.responses ++ [{ tag := tag, code := .failed, data := [] }] },
        arbiter := { p.arbiter with issued := setAt p.arbiter.issued t none },
        events := { p.events with flags := p.events.flags ||| eventMask .dataFault } }, w⟩) ∧
  (∀ (p : Part) (w : List Instr) (t : DTag) (r : DownReq) (tag : Tag) (c : Chan) (data : List Byte),
    getAt p.arbiter.issued t = some r → r.purpose = .direct tag c → r.kind = .write →
    exec (.ptAnswerDone t data) ⟨p, w⟩ =
      .next ⟨settle { p with
        port := { p.port with tags := setAt p.port.tags tag false,
                              responses := p.port.responses ++ [{ tag := tag, code := .done, data := [] }] },
        channels := setAt p.channels c { chan p c with outstanding := (chan p c).outstanding - 1 },
        arbiter := { p.arbiter with issued := setAt p.arbiter.issued t none } }, w⟩ ∧
    exec (.ptAnswerFailed t) ⟨p, w⟩ =
      .next ⟨settle { p with
        port := { p.port with tags := setAt p.port.tags tag false,
                              responses := p.port.responses ++ [{ tag := tag, code := .failed, data := [] }] },
        channels := setAt p.channels c { chan p c with outstanding := (chan p c).outstanding - 1 },
        arbiter := { p.arbiter with issued := setAt p.arbiter.issued t none },
        events := { p.events with flags := p.events.flags ||| eventMask .dataFault } }, w⟩)

/-- R68: memory's answer to a forwarded entry goes upstream and the entry leaves the queue; a write leaves its channel's
outstanding count, and FAILED raises DATA_FAULT. The two tests that its leaving makes due are the model's marks (log 9). -/
def Obligations.HeldEntryIsAnswered : Prop :=
  ∀ (p : Part) (w : List Instr) (t : DTag) (r : DownReq) (tag : Tag) (e : HoldEntry) (data : List Byte),
    getAt p.arbiter.issued t = some r → r.purpose = .held tag → holdEntry p tag = some e →
    exec (.ptAnswerDone t data) ⟨p, w⟩ =
      .next ⟨settle { p with
        port := { p.port with tags := setAt p.port.tags tag false,
                              responses := p.port.responses ++
                                [{ tag := tag, code := .done, data := if r.kind = .read then data else [] }] },
        hold := { p.hold with queue := p.hold.queue.filter (fun x => x.req.tag != tag),
                              lineTest := true, headRetry := true },
        slots := p.slots.map fun s => s.map fun k => if k.owner == some tag then { k with owner := none } else k,
        channels := if e.req.kind = .write then
            setAt p.channels e.channel { chan p e.channel with outstanding := (chan p e.channel).outstanding - 1 }
          else p.channels,
        arbiter := { p.arbiter with issued := setAt p.arbiter.issued t none } }, w⟩ ∧
    exec (.ptAnswerFailed t) ⟨p, w⟩ =
      .next ⟨settle { p with
        port := { p.port with tags := setAt p.port.tags tag false,
                              responses := p.port.responses ++ [{ tag := tag, code := .failed, data := [] }] },
        hold := { p.hold with queue := p.hold.queue.filter (fun x => x.req.tag != tag),
                              lineTest := true, headRetry := true },
        slots := p.slots.map fun s => s.map fun k => if k.owner == some tag then { k with owner := none } else k,
        channels := if e.req.kind = .write then
            setAt p.channels e.channel { chan p e.channel with outstanding := (chan p e.channel).outstanding - 1 }
          else p.channels,
        arbiter := { p.arbiter with issued := setAt p.arbiter.issued t none },
        events := { p.events with flags := p.events.flags ||| eventMask .dataFault } }, w⟩

/-! ### Copies and records -/

/-- R79, R92 to R95, R99, R103, R110, R154: the placement of a record. Records are taken while the writer is RUNNING, and all
but UNDO records while it is SUSPENDED, never in a soft reset's drain. By the table of R94 an UNDO record goes into the ACTIVE
segment with 3 slots free, and 7 with no segment FREE; a COMMIT or ABORT record with 1; a TORN record with 1, and 5 with no
segment FREE. Else an UNDO record opens a segment with 2 FREE, the others with 1. With neither nothing is placed. A record that
fits takes the next sequence number at the segment's first free slot; its write, in two pieces where it crosses a block
boundary, is presented at once unless the segment's header is not yet answered DONE. It carries the header slot, and the image of
an UNDO record behind it, and an UNDO or TORN record puts its channel into the segment's mask. -/
def Obligations.RecordTakesNextNumber : Prop :=
  (∀ (p : Part) (k : RecordKind), accepts p k = true ↔
    p.command.busy ≠ .softReset ∧ (p.writer.state = .running ∨ (p.writer.state = .suspended ∧ k ≠ .undo))) ∧
  (∀ (p : Part) (i : Nat) (e : SegEntry), activeEntry p.writer = some (i, e) ↔
    p.writer.active = some i ∧ p.writer.table[i]? = some e) ∧
  (∀ (p : Part) (k : RecordKind) (i : Nat) (e : SegEntry) (left free : Nat), activeEntry p.writer = some (i, e) →
    left = 128 * 2 ^ p.classifier.geometry.sizeCode.toNat - e.used →
    free = (p.writer.table.filter fun x => x.state == .free).length →
    (fitsActive p.classifier.geometry p.writer k = true ↔ match k with
      | .undo => 3 ≤ left ∧ (free = 0 → 7 ≤ left)
      | .commit | .abort => 1 ≤ left
      | .torn => 1 ≤ left ∧ (free = 0 → 5 ≤ left)
      | .pad => False) ∧
    (mayOpen p.writer k = true ↔ match k with
      | .undo => 2 ≤ free
      | .commit | .abort | .torn => 1 ≤ free
      | .pad => False) ∧
    (rowAllows p k = true ↔ fitsActive p.classifier.geometry p.writer k = true ∨ mayOpen p.writer k = true)) ∧
  (∀ (p : Part) (r : PlaceReq), (accepts p r.kind = false ∨ rowAllows p r.kind = false) → place p r = (p, none)) ∧
  (∀ (w : JournalWrite) (a : Nat), a = w.addr.toNat → 0 < w.bytes.length →
    recordRequests w =
      if a / 256 = (a + w.bytes.length - 1) / 256 then [engineWrite (.record w.seq) a w.bytes]
      else [engineWrite (.record w.seq) a (w.bytes.take (256 - a % 256)),
            engineWrite (.record w.seq) (a + (256 - a % 256)) (w.bytes.drop (256 - a % 256))]) ∧
  (∀ (p : Part) (r : PlaceReq) (i : Nat) (e : SegEntry),
    accepts p r.kind = true → activeEntry p.writer = some (i, e) →
    fitsActive p.classifier.geometry p.writer r.kind = true → p.writer.next ≤ 281474976710654 →
    ∃ j : JournalWrite,
      (j.isHeader = false ∧ j.seq = p.writer.next ∧ j.seg = i ∧ j.failed = false ∧
        j.addr = BitVec.ofNat 40 (slotAddr p.classifier.geometry i e.used) ∧
        j.bytes = recordBytes p.classifier.geometry.identity r p.writer.next (if r.kind = .undo then 3 else 1) e.lastLen ∧
        j.unanswered = (blockPieces (slotAddr p.classifier.geometry i e.used) j.bytes.length).length ∧
        j.presented = !headerPending p.writer.journal i) ∧
      place p r =
        ({ p with
          writer := { p.writer with
            next := p.writer.next + 1,
            table := p.writer.table.set i { e with
              used := e.used + (if r.kind = .undo then 3 else 1),
              lastLen := if r.kind = .undo then 3 else 1,
              mask := e.mask ||| (if r.kind = .undo ∨ r.kind = .torn then maskBit r.channel else 0) },
            journal := p.writer.journal ++ [j] },
          arbiter := { p.arbiter with
            waiting := p.arbiter.waiting ++ (if j.presented then recordRequests j else []) } },
          some p.writer.next) ∧
      place p r = (putRecord p i e r, some p.writer.next)) ∧
  (∀ (js : List JournalWrite) (i : Nat), headerPending js i = true ↔
    ∃ j ∈ js, j.isHeader = true ∧ j.seg = i ∧ (j.failed = true ∨ j.unanswered ≠ 0)) ∧
  (∀ (identity : Word) (r : PlaceReq) (n : Seq) (len back : Nat),
    recordBytes identity r n len back =
      (placedHeader identity r n len back).bytes ++ (if r.kind = .undo then r.image else [])) ∧
  (∀ a len : Nat, (blockPieces a len).length = if a / 256 = (a + (len - 1)) / 256 then 1 else 2) ∧
  (∀ (c : Chan) (i : Nat), (maskBit c).getLsbD i = decide (i = c.val))

/-- R84, R97, R99: steps 1 to 5 of a segment's opening. A PAD covers what is left of the ACTIVE segment, which becomes CLOSED,
or FREE or HELD at once when its mask is empty (R104). The first FREE segment in circular order from the index after it
becomes ACTIVE, and its header, naming the next sequence number and each channel's R_c, is placed behind the PAD and handed
over. A record that may open a segment and does not fit is then placed there (R94). The PAD is of channel 0 and epoch 0. -/
def Obligations.SegmentIsOpened : Prop :=
  padRequest = { kind := .pad, channel := 0, epoch := 0, torn := false, fault := false, overflowed := false, line := 0,
                 region := 0xFFFF, image := [], undoCount := 0 } ∧
  ∀ (p q : Part) (i d j : Nat) (e : SegEntry) (g : Geometry) (pad : JournalWrite) (left : SegState)
    (table : List SegEntry) (n : Seq) (padBytes bytes : List Byte),
    g = p.classifier.geometry → p.writer.table[i]? = some e →
    padBytes = recordBytes g.identity padRequest p.writer.next
      (if slotsPerSegment g - e.used ≤ 255 then slotsPerSegment g - e.used else 0) e.lastLen →
    pad = { isHeader := false, seq := p.writer.next, seg := i, addr := BitVec.ofNat 40 (slotAddr g i e.used),
            bytes := padBytes, presented := !headerPending p.writer.journal i,
            unanswered := (blockPieces (slotAddr g i e.used) padBytes.length).length, failed := false } →
    left = (if e.mask = 0 then if p.writer.retain then .held else .free else .closed) →
    table = p.writer.table.set i
      (if e.used < slotsPerSegment g then
        { e with state := left, used := e.used + (slotsPerSegment g - e.used),
                 lastLen := if slotsPerSegment g - e.used ≤ 255 then slotsPerSegment g - e.used else 0 }
      else { e with state := left }) →
    n = p.writer.next + (if e.used < slotsPerSegment g then 1 else 0) →
    d < table.length → j = (i + 1 + d) % table.length →
    (∃ x, table[j]? = some x ∧ x.state = .free) →
    (∀ d' < d, ∀ x, table[(i + 1 + d') % table.length]? = some x → x.state ≠ .free) →
    bytes = segmentHeaderBytes g j true n (p.channels.map fun ch => ch.resolved) →
    q = { p with
      writer := { p.writer with
        active := some j, next := n,
        table := table.set j { state := .active, first := n, used := 2, lastLen := 0, mask := 0 },
        journal := p.writer.journal ++ (if e.used < slotsPerSegment g then [pad] else []) ++
          [{ isHeader := true, seq := n, seg := j, addr := BitVec.ofNat 40 (segmentAddr g j), bytes := bytes,
             presented := true, unanswered := 1, failed := false }] },
      arbiter := { p.arbiter with
        waiting := p.arbiter.waiting ++
          (if e.used < slotsPerSegment g ∧ pad.presented = true then recordRequests pad else []) ++
          [engineWrite (.header j) (segmentAddr g j) bytes] },
      events := { p.events with
        flags := if e.mask = 0 ∧ p.writer.retain = true then p.events.flags ||| eventMask .segmentHeld
          else p.events.flags } } →
    openSegment p i e = q ∧
    (∀ r : PlaceReq, accepts p r.kind = true → p.writer.active = some i →
      fitsActive g p.writer r.kind = false → mayOpen p.writer r.kind = true → n ≤ 281474976710654 →
      place p r = (putRecord q j { state := .active, first := n, used := 2, lastLen := 0, mask := 0 } r, some n))

/-- R30, R31, R64, R81, R95, R96, R103: a COMMITTING channel whose commit has not asked yet, with no write entry of its epoch in
the hold queue and no write outstanding, is drained; with records or its torn flag it asks for its COMMIT record, which carries
the count and the flags. Placed, the marker keeps the number and its deadline stops; not placed, the request waits behind the
others. A SUSPENDED writer returns to RUNNING when an UNDO record could be placed, and not before (nor in a drain,
log 23). The waiting control request at the head of the list is placed as soon as it can be, and its block keeps the number;
while it cannot, those behind it wait with it. While the writer is RUNNING the first HELD image of the oldest entry in
WAIT_SPACE is offered: placed, its line is PLACED, the tracker takes the number, the record counts, and an entry with no image
left goes on; refused, the image stays HELD and the writer is SUSPENDED. Space is handed out in the order of R103: the
waiting requests, then the HELD images, then the free slots; the place of the waiting head of the intake queue before the slots,
and of the steps before these, is the model's choice (log 9). A placement that halts the writer leaves no number: what the halt
has left stands. `settle` carries out what is due, one event at a time, at most 1024 of them (log 9). -/
def Obligations.SpaceIsHandedOut : Prop :=
  (∀ (p : Part),
    (resumeStep p =
      if p.writer.state = .suspended ∧ p.command.busy ≠ .softReset ∧ rowAllows p .undo = true then
        some { p with writer := { p.writer with state := .running } }
      else none) ∧
    (∀ r rest, p.writer.waiting = r :: rest → (accepts p r.kind = false ∨ rowAllows p r.kind = false) →
      waitingStep p = none) ∧
    (∀ r rest q n, p.writer.waiting = r :: rest → accepts p r.kind = true → rowAllows p r.kind = true →
      place { p with writer := { p.writer with waiting := rest } } r = (q, some n) →
      (r.kind = .commit → waitingStep p = some { q with
        channels := setAt q.channels r.channel { chan q r.channel with
          marker := (chan q r.channel).marker.map fun m => { m with deadline := none, record := some n } } }) ∧
      (r.kind = .abort → waitingStep p = some { q with
        restore := { q.restore with rollback := q.restore.rollback.map fun x => { x with abortRecord := some n } } })) ∧
    (∀ r rest q, p.writer.waiting = r :: rest → accepts p r.kind = true → rowAllows p r.kind = true →
      place { p with writer := { p.writer with waiting := rest } } r = (q, none) → waitingStep p = some q) ∧
    ((p.writer.state ≠ .running ∨ p.command.busy = .softReset) → heldStep p = none) ∧
    (∀ e l image loose req, p.writer.state = .running → p.command.busy ≠ .softReset →
      p.hold.queue.find? (fun x => x.state == .waitSpace) = some e → e.lines.find? HoldLine.isHeld = some l →
      l.sub = .held image → e.failed = false → (∀ x ∈ p.hold.queue, x.req.tag = e.req.tag → x = e) →
      (∀ y ∈ e.lines, y.line = l.line → y = l) → loose = l.untracked →
      req = { kind := .undo, channel := e.channel, epoch := e.epoch.getD 0, torn := false, fault := false,
              overflowed := false, line := l.line, region := BitVec.ofNat 16 e.region.val, image := image, undoCount := 0 } →
      (∀ q n, place p req = (q, some n) → p.writer.frontier < n →
        heldStep p = some { q with
          hold := { q.hold with queue := q.hold.queue.map fun x =>
            if x.req.tag = e.req.tag then
              { x with
                lines := x.lines.map fun y => if y.line = l.line then { y with sub := .placed n } else y,
                state := if e.lines.any (fun y => y.line != l.line && y.isHeld) then .waitSpace
                  else if e.lines.any HoldLine.isPending then .copying else .recording }
            else x },
          tracker := if loose then q.tracker else q.tracker.map fun x => if x.line = l.line then { x with seq := some n } else x,
          channels := setAt q.channels e.channel
            { chan q e.channel with
              records := countUp (chan q e.channel).records,
              untrackedSaves := if loose then countUp (chan q e.channel).untrackedSaves
                else (chan q e.channel).untrackedSaves } }) ∧
      (∀ q, place p req = (q, none) → q.writer.state = .running →
        heldStep p = some { q with
          writer := { q.writer with state := .suspended },
          events := { q.events with flags := q.events.flags ||| eventMask .writerSuspended } }) ∧
      (∀ q, offerImage p e.req.tag l.line image = q → holdEntry q e.req.tag = none → heldStep p = some q)) ∧
    (∀ c, commitReady p c = true ↔
      (chan p c).state = .committing ∧ (∃ m, (chan p c).marker = some m ∧ m.action = .commit ∧ m.record = none) ∧
        (∀ r ∈ p.writer.waiting, r.kind = .commit → r.channel ≠ c) ∧
        (∀ e ∈ p.hold.queue, e.req.kind = .write → e.channel = c → e.epoch ≠ some (chan p c).epoch) ∧
        (chan p c).outstanding = 0) ∧
    ((∀ c, commitReady p c = false) → commitAskStep p = none) ∧
    (∀ c ch m req q, ([0, 1, 2, 3] : List Chan).find? (commitReady p) = some c → ch = chan p c → ch.marker = some m →
      (ch.records ≠ 0 ∨ ch.torn = true) →
      req = { kind := .commit, channel := c, epoch := ch.epoch, torn := ch.torn, fault := false,
              overflowed := ch.overflow, line := 0, region := 0xFFFF, image := [], undoCount := ch.records } →
      (∀ n, place p req = (q, some n) →
        commitAskStep p = some { q with
          channels := setAt q.channels c
            { chan q c with marker := some { m with deadline := none, record := some n } } }) ∧
      (place p req = (p, none) →
        commitAskStep p = some { p with writer := { p.writer with waiting := p.writer.waiting ++ [req] } }) ∧
      (place p req = (q, none) → (chan q c).marker = none → commitAskStep p = some q)) ∧
    internal p = (forwardStep p).or ((commitEndStep p).or ((rollbackStep p).or ((lineTestStep p).or ((commitAskStep p).or
      ((abortStep p).or ((resumeStep p).or ((waitingStep p).or ((heldStep p).or ((headRetryStep p).or
        (assignSlot p))))))))))) ∧
  (∀ p : Part, settle p = settleFor 1024 p ∧ settleFor 0 p = p ∧ (p.AtRest ↔ internal p = none) ∧
    (internal p = none → settle p = p) ∧
    ∀ k, settleFor (k + 1) p = match internal p with
      | none => p
      | some q => settleFor k q)


/-- R39, R48, R57, R60, R62, R63, R65, R95, R116: a copy read answered DONE frees its slot and its image is offered as an UNDO record. Placed:
the line is PLACED with the record's number, which the tracker takes, and the channel counts a record, an untracked line's one
as an untracked save besides; with no read of the entry left it goes on. Refused: the line is HELD, a RUNNING writer is
SUSPENDED with WRITER_SUSPENDED, and with no read left the entry is in WAIT_SPACE, where it expires as it
enters past its deadline. In general the read's answer is the offer of its image and the test of its entry. A refused image is
discarded with its tracker entry where the entry has failed or an abort's drain withholds it, the line PENDING (log 45); a
writer neither RUNNING nor SUSPENDED, or in a soft reset's drain, refuses without an event. While a read is in flight the entry
stays; then a withheld one is answered REFUSED, a failed one FAILED, and any other offers its HELD images again, in ascending
address, while the writer is RUNNING. Two clauses here are the model's choice: which answer an entry gets that is withheld, failed
or found by a freeze at once is log 20, and that a failed one's HELD images go unoffered, with the writer RUNNING too, is log 50. When the last copy read of an entry is answered FAILED, COPY_FAULT is raised, the write is
answered FAILED, and its entry and the line's tracker entry go. R66, R69: the data of a read whose entry has left is discarded
with the line's tracker entry; that its FAILED answer raises COPY_FAULT is the model's choice (log 36). The two tests that an
entry's leaving makes due are the model's marks (log 9). -/
def Obligations.CopyReadIsAnswered : Prop :=
  (∀ (p q : Part) (w : List Instr) (t : DTag) (r : DownReq) (k : Fin 4) (line : Addr) (e : HoldEntry)
    (data : List Byte) (req : PlaceReq) (loose inFlight : Bool),
    getAt p.arbiter.issued t = some r → r.purpose = .copy k →
    getAt p.slots k = some { line := line, channel := e.channel, owner := some e.req.tag } →
    holdEntry p e.req.tag = some e → (∀ x ∈ p.hold.queue, x.req.tag = e.req.tag → x = e) →
    e.state = .copying → e.failed = false → withheld p e = false → p.command.busy ≠ .softReset →
    loose = e.lines.any (fun l => l.line == line && l.untracked) →
    inFlight = e.lines.any (fun l => l.line != line && l.sub == .copying) →
    (inFlight = true ∨ ∀ l ∈ e.lines, l.line ≠ line → l.isHeld = false) →
    req = { kind := .undo, channel := e.channel, epoch := e.epoch.getD 0, torn := false, fault := false, overflowed := false,
            line := line, region := BitVec.ofNat 16 e.region.val, image := data, undoCount := 0 } →
    (∀ n, p.writer.frontier < n →
      place { p with arbiter := { p.arbiter with issued := setAt p.arbiter.issued t none },
                     slots := setAt p.slots k none } req = (q, some n) →
      exec (.copyReadDone t data) ⟨p, w⟩ =
        .next ⟨settle { q with
          hold := { q.hold with queue := q.hold.queue.map fun x =>
            if x.req.tag = e.req.tag then
              { x with
                lines := x.lines.map fun l => if l.line = line then { l with sub := .placed n } else l,
                state := if inFlight ∨ e.lines.any (fun l => l.line != line && l.isPending) then .copying else .recording }
            else x },
          tracker := if loose then q.tracker else q.tracker.map fun x => if x.line = line then { x with seq := some n } else x,
          channels := setAt q.channels e.channel
            { chan q e.channel with
              records := countUp (chan q e.channel).records,
              untrackedSaves := if loose then countUp (chan q e.channel).untrackedSaves
                else (chan q e.channel).untrackedSaves } }, w⟩) ∧
    (place { p with arbiter := { p.arbiter with issued := setAt p.arbiter.issued t none },
                    slots := setAt p.slots k none } req = (q, none) →
      (q.writer.state = .running ∨ q.writer.state = .suspended) →
      (inFlight = true ∨ ∀ d, e.deadline = some d → p.now ≤ d) →
      (∃ l ∈ e.lines, l.line = line) →
      exec (.copyReadDone t data) ⟨p, w⟩ =
        .next ⟨settle { q with
          hold := { q.hold with queue := q.hold.queue.map fun x =>
            if x.req.tag = e.req.tag then
              { x with
                lines := x.lines.map fun l => if l.line = line then { l with sub := .held data } else l,
                state := if inFlight then .copying else .waitSpace }
            else x },
          writer := { q.writer with state := .suspended },
          events := { q.events with flags := if q.writer.state = .running
            then q.events.flags ||| eventMask .writerSuspended else q.events.flags } }, w⟩)) ∧
  (∀ (p : Part) (w : List Instr) (t : DTag) (r : DownReq) (k : Fin 4) (line : Addr) (e : HoldEntry),
    getAt p.arbiter.issued t = some r → r.purpose = .copy k →
    getAt p.slots k = some { line := line, channel := e.channel, owner := some e.req.tag } →
    holdEntry p e.req.tag = some e → (∀ x ∈ p.hold.queue, x.req.tag = e.req.tag → x = e) →
    withheld p e = false →
    (∀ l ∈ e.lines, l.line = line ∨ (l.sub ≠ .copying ∧ l.isHeld = false)) →
    exec (.copyReadFailed t) ⟨p, w⟩ =
      .next ⟨settle { p with
        port := { p.port with tags := setAt p.port.tags e.req.tag false,
                              responses := p.port.responses ++ [{ tag := e.req.tag, code := .failed, data := [] }] },
        tracker := p.tracker.filter fun x => x.line != line,
        hold := { p.hold with queue := p.hold.queue.filter (fun x => x.req.tag != e.req.tag),
                              lineTest := true, headRetry := true },
        slots := (setAt p.slots k none).map fun s => s.map fun x =>
          if x.owner == some e.req.tag then { x with owner := none } else x,
        arbiter := { p.arbiter with issued := setAt p.arbiter.issued t none },
        events := { p.events with flags := p.events.flags ||| eventMask .copyFault } }, w⟩) ∧
  (∀ (p q : Part) (w : List Instr) (t : DTag) (r : DownReq) (k : Fin 4) (line : Addr) (c : Chan) (data : List Byte),
    getAt p.arbiter.issued t = some r → r.purpose = .copy k →
    getAt p.slots k = some { line := line, channel := c, owner := none } →
    q = { p with
      tracker := p.tracker.filter fun x => x.line != line || x.seq.isSome,
      slots := setAt p.slots k none,
      arbiter := { p.arbiter with issued := setAt p.arbiter.issued t none } } →
    exec (.copyReadDone t data) ⟨p, w⟩ = .next ⟨settle q, w⟩ ∧
    exec (.copyReadFailed t) ⟨p, w⟩ =
      .next ⟨settle { q with events := { p.events with flags := p.events.flags ||| eventMask .copyFault } }, w⟩) ∧
  (∀ (p q : Part) (w : List Instr) (t : DTag) (r : DownReq) (k : Fin 4) (line : Addr) (c : Chan) (tag : Tag) (data : List Byte),
    getAt p.arbiter.issued t = some r → r.purpose = .copy k →
    getAt p.slots k = some { line := line, channel := c, owner := some tag } →
    q = { p with slots := setAt p.slots k none,
                 arbiter := { p.arbiter with issued := setAt p.arbiter.issued t none } } →
    exec (.copyReadDone t data) ⟨p, w⟩ = .next ⟨settle (copiesTested (offerImage q tag line data) tag), w⟩ ∧
    exec (.copyReadFailed t) ⟨p, w⟩ =
      .next ⟨settle (copiesTested { q with
        tracker := p.tracker.filter fun x => x.line != line,
        hold := { p.hold with queue := p.hold.queue.map fun x =>
          if x.req.tag = tag then
            { x with lines := x.lines.map (fun l => if l.line = line then { l with sub := .pending } else l), failed := true }
          else x },
        events := { p.events with flags := p.events.flags ||| eventMask .copyFault } } tag), w⟩) ∧
  (∀ (p q : Part) (line : Addr) (e : HoldEntry) (image : List Byte) (req : PlaceReq) (loose : Bool)
    (lines : LineState → HoldUnit),
    holdEntry p e.req.tag = some e →
    loose = e.lines.any (fun l => l.line == line && l.untracked) →
    req = { kind := .undo, channel := e.channel, epoch := e.epoch.getD 0, torn := false, fault := false, overflowed := false,
            line := line, region := BitVec.ofNat 16 e.region.val, image := image, undoCount := 0 } →
    lines = (fun sub => { q.hold with queue := q.hold.queue.map fun x =>
      if x.req.tag = e.req.tag then
        { x with lines := x.lines.map fun l => if l.line = line then { l with sub := sub } else l }
      else x }) →
    (∀ n, place p req = (q, some n) →
      offerImage p e.req.tag line image = { q with
        hold := lines (if n ≤ p.writer.frontier then .durable else .placed n),
        tracker := if loose then q.tracker else q.tracker.map fun x => if x.line = line then { x with seq := some n } else x,
        channels := setAt q.channels e.channel
          { chan q e.channel with
            records := countUp (chan q e.channel).records,
            untrackedSaves := if loose then countUp (chan q e.channel).untrackedSaves
              else (chan q e.channel).untrackedSaves } }) ∧
    (place p req = (q, none) → p.command.busy ≠ .softReset → (q.writer.state = .running ∨ q.writer.state = .suspended) →
      (e.failed = false → withheld p e = false →
        offerImage p e.req.tag line image = { q with
          hold := lines (.held image), writer := { q.writer with state := .suspended },
          events := { q.events with flags := if q.writer.state = .running
            then q.events.flags ||| eventMask .writerSuspended else q.events.flags } }) ∧
      ((e.failed = true ∨ withheld p e = true) →
        offerImage p e.req.tag line image = { q with
          hold := lines .pending, tracker := q.tracker.filter (fun x => x.line != line),
          writer := { q.writer with state := .suspended },
          events := { q.events with flags := if q.writer.state = .running
            then q.events.flags ||| eventMask .writerSuspended else q.events.flags } })) ∧
    (place p req = (q, none) →
      (p.command.busy = .softReset ∨ (q.writer.state ≠ .running ∧ q.writer.state ≠ .suspended)) →
      (e.failed = false → withheld q e = false → offerImage p e.req.tag line image = { q with hold := lines (.held image) }) ∧
      ((e.failed = true ∨ withheld q e = true) →
        offerImage p e.req.tag line image = { q with
          hold := lines .pending, tracker := q.tracker.filter (fun x => x.line != line) })) ∧
    (place p req = (q, none) → q.writer.state = .halted → q.tracker = [] →
      (∀ x ∈ q.hold.queue, x.req.tag ≠ e.req.tag) → offerImage p e.req.tag line image = q)) ∧
  (∀ (p : Part) (e : HoldEntry) (leaves : RespCode → Part), holdEntry p e.req.tag = some e →
    leaves = (fun code => { p with
      port := { p.port with tags := setAt p.port.tags e.req.tag false,
                            responses := p.port.responses ++ [{ tag := e.req.tag, code := code, data := [] }] },
      tracker := p.tracker.filter fun x => !(e.lines.any fun l => l.isHeld && l.line == x.line),
      hold := { p.hold with queue := p.hold.queue.filter (fun x => x.req.tag != e.req.tag),
                            lineTest := true, headRetry := true },
      slots := p.slots.map fun s => s.map fun k =>
        if k.owner == some e.req.tag then { k with owner := none } else k }) →
    (withheld p e = true ↔ ∃ x, p.restore.rollback = some x ∧ x.phase = .draining ∧ e.req.kind = .write ∧
      e.channel = x.channel ∧ e.epoch = some x.epoch ∧ e.state = .copying) ∧
    ((∃ l ∈ e.lines, l.sub = .copying) → copiesTested p e.req.tag = p) ∧
    ((∀ l ∈ e.lines, l.sub ≠ .copying) →
      (withheld p e = true → p.power.frozen = false → copiesTested p e.req.tag = leaves .refused) ∧
      ((withheld p e = false ∨ p.power.frozen = true) →
        (e.failed = true → copiesTested p e.req.tag = leaves .failed) ∧
        (∀ q, e.failed = false →
          q = (e.lines.filter HoldLine.isHeld).foldl (fun v l =>
            match v.writer.state, l.sub with
            | .running, .held image => offerImage v e.req.tag l.line image
            | _, _ => v) p →
          (holdEntry q e.req.tag = none → copiesTested p e.req.tag = q) ∧
          ∀ x u, holdEntry q e.req.tag = some x →
          u = { q with hold := { q.hold with queue := q.hold.queue.map fun y =>
            if y.req.tag = e.req.tag then { y with state := restingState y.lines } else y } } →
          (∀ d, (∃ l ∈ x.lines, l.isHeld = true) → x.deadline = some d → d < u.now →
            copiesTested p e.req.tag = expire u { x with state := .waitSpace }) ∧
          (((∀ l ∈ x.lines, l.isHeld = false) ∨ ∀ d, x.deadline = some d → u.now ≤ d) →
            copiesTested p e.req.tag = u))))) ∧
  (∀ ls : List HoldLine, restingState ls =
    if ls.any HoldLine.isHeld then .waitSpace
    else if ls.any (fun l => l.changed && l.sub == .pending) then .copying else .recording)

/-- R48, R60, R61, R69, R179: a free slot is assigned while the writer is RUNNING, and never otherwise, nor in a soft reset's drain, with no slot free, or
with no line that may be copied: the lowest-numbered free slot (which of several R60 does not say: the model's choice, log
57) goes to the first PENDING line of the oldest write in WAIT_COPY or COPYING that has not failed and that no abort's drain withholds. The
tracker inserts the line; with all 1024 entries in use the line is untracked, the channel's overflow flag is set and
TRACKER_OVERFLOW is raised. The line and the entry are COPYING and the copy read of 64 bytes is handed over. -/
def Obligations.SlotIsAssigned : Prop :=
  ∀ (p : Part) (k : Fin 4) (e : HoldEntry) (l : HoldLine),
    (p.writer.state ≠ .running → assignSlot p = none) ∧
    (p.command.busy = .softReset → assignSlot p = none) ∧
    ((∀ j, getAt p.slots j ≠ none) → assignSlot p = none) ∧
    ((∀ x ∈ p.hold.queue, x.req.kind = .write → (x.state = .waitCopy ∨ x.state = .copying) → x.failed = false →
      withheld p x = false → ∀ y ∈ x.lines, y.changed = true → y.sub ≠ .pending) → assignSlot p = none) ∧
    (p.writer.state = .running → p.command.busy ≠ .softReset →
      getAt p.slots k = none → (∀ j, j < k → getAt p.slots j ≠ none) →
      p.hold.queue.find? (fun x => x.isWrite && (x.state == .waitCopy || x.state == .copying) && !x.failed &&
        !withheld p x && x.lines.any HoldLine.isPending) = some e →
      e.lines.find? HoldLine.isPending = some l →
      (p.tracker.length < 1024 →
        assignSlot p = some { p with
          tracker := p.tracker ++ [{ line := l.line, channel := e.channel, seq := none }],
          hold := { p.hold with queue := p.hold.queue.map fun x =>
            if x.req.tag = e.req.tag then
              { x with state := .copying,
                       lines := x.lines.map fun y => if y.line = l.line then { y with sub := .copying, untracked := false } else y }
            else x },
          slots := setAt p.slots k (some { line := l.line, channel := e.channel, owner := some e.req.tag }),
          arbiter := { p.arbiter with waiting := p.arbiter.waiting ++ [engineRead (.copy k) l.line.toNat 64] } }) ∧
      (1024 ≤ p.tracker.length →
        assignSlot p = some { p with
          channels := setAt p.channels e.channel { chan p e.channel with overflow := true },
          hold := { p.hold with queue := p.hold.queue.map fun x =>
            if x.req.tag = e.req.tag then
              { x with state := .copying,
                       lines := x.lines.map fun y => if y.line = l.line then { y with sub := .copying, untracked := true } else y }
            else x },
          slots := setAt p.slots k (some { line := l.line, channel := e.channel, owner := some e.req.tag }),
          arbiter := { p.arbiter with waiting := p.arbiter.waiting ++ [engineRead (.copy k) l.line.toNat 64] },
          events := { p.events with flags := p.events.flags ||| eventMask .trackerOverflow } }))

/-- R23, R67: a write entry is forwardable when it is in RECORDING, its failed mark is clear, every older entry that shares a
line with it is in FORWARDING, and every line it changes is DURABLE or it is on the torn path of a channel whose torn flag is
set. The first such entry in queue order goes to FORWARDING and down as one pass-through write, and stands in its channel's
outstanding count. The test of R54 that this makes due is the model's mark (log 9). -/
def Obligations.HeldWriteIsForwarded : Prop :=
  (∀ (q : List HoldEntry) (t : Tag), ∃ rest, q = olderThan q t ++ rest ∧ (∀ o ∈ olderThan q t, o.req.tag ≠ t) ∧
    ∀ x, rest.head? = some x → x.req.tag = t) ∧
  ∀ (p : Part) (e : HoldEntry),
    (forwardable p e = true ↔
      e.req.kind = .write ∧ e.state = .recording ∧ e.failed = false ∧
        (∀ o ∈ olderThan p.hold.queue e.req.tag, requestsShare o.req e.req = true → o.state = .forwarding) ∧
        ((∀ l ∈ e.lines, l.changed = true → l.sub = .durable) ∨ (e.torn = true ∧ (chan p e.channel).torn = true))) ∧
    (p.hold.queue.find? (forwardable p) = some e →
      internal p = some { p with
        hold := { p.hold with
          queue := p.hold.queue.map (fun x => if x.req.tag = e.req.tag then { x with state := .forwarding } else x),
          lineTest := true },
        arbiter := { p.arbiter with waiting := p.arbiter.waiting ++
          [{ purpose := .held e.req.tag, kind := .write, addr := e.req.addr, len := e.req.len, enables := e.req.enables,
             data := e.req.data }] },
        channels := setAt p.channels e.channel
          { chan p e.channel with outstanding := (chan p e.channel).outstanding + 1 } })

/-- R47, R54, R57, R67: tested after an entry went to FORWARDING or left (log 9), the oldest entry in WAIT_LINE whose older sharing
entries are all in FORWARDING leaves it; with no such entry the test is done. An entry that leaves WAIT_LINE proceeds so: a read
goes down and to FORWARDING. A write has its lines looked up and its hits counted; with every changed line DURABLE it goes down,
with a PENDING one it goes to WAIT_COPY, else to RECORDING. One that enters WAIT_COPY past its deadline expires as it enters.
(What a rise of the frontier makes due comes first, log 52.) -/
def Obligations.WaitLineIsLeft : Prop :=
  (∀ (p : Part) (e : HoldEntry), p.hold.lineTest = true →
    (∀ x ∈ p.hold.queue, forwardable p x = false) → firstDurable p = none → rollbackStep p = none →
    (p.hold.queue.find? (fun x => x.state == .waitLine && olderCleared p.hold.queue x) = none →
      internal p = some { p with hold := { p.hold with lineTest := false } }) ∧
    (p.hold.queue.find? (fun x => x.state == .waitLine && olderCleared p.hold.queue x) = some e →
      internal p = some (proceed p e))) ∧
  (∀ (q : List HoldEntry) (e : HoldEntry), olderCleared q e = true ↔
    ∀ o ∈ olderThan q e.req.tag, requestsShare o.req e.req = true → o.state = .forwarding) ∧
  (∀ (p : Part) (e : HoldEntry), e.req.kind = .read →
    proceed p e = { p with
      hold := { p.hold with lineTest := true, queue := p.hold.queue.map fun x =>
        if x.req.tag = e.req.tag then { x with state := .forwarding } else x },
      arbiter := { p.arbiter with waiting := p.arbiter.waiting ++
        [{ purpose := .held e.req.tag, kind := .read, addr := e.req.addr, len := e.req.len, enables := e.req.enables,
           data := e.req.data }] } }) ∧
  (∀ (p q : Part) (e x : HoldEntry) (ls : List HoldLine) (hits : Word), e.req.kind = .write →
    ls = e.lines.map (fun l =>
      if l.changed then
        { l with sub := match trackerLookup p.tracker l.line e.channel with
            | none => .pending
            | some n => if n ≤ p.writer.frontier then .durable else .placed n }
      else l) →
    hits = countBy (e.lines.countP fun l => l.changed && (trackerLookup p.tracker l.line e.channel).isSome)
      (chan p e.channel).trackerHits →
    ((∀ l ∈ ls, l.changed = true → l.sub = .durable) →
      proceed p e = { p with
        hold := { p.hold with lineTest := true, queue := p.hold.queue.map fun y =>
          if y.req.tag = e.req.tag then { y with lines := ls, state := .forwarding } else y },
        arbiter := { p.arbiter with waiting := p.arbiter.waiting ++
          [{ purpose := .held e.req.tag, kind := .write, addr := e.req.addr, len := e.req.len,
             enables := e.req.enables, data := e.req.data }] },
        channels := setAt p.channels e.channel
          { chan p e.channel with trackerHits := hits, outstanding := (chan p e.channel).outstanding + 1 } }) ∧
    ((∃ l ∈ ls, l.changed = true ∧ l.sub ≠ .durable) → holdEntry p e.req.tag = some e →
      x = { e with lines := ls,
                   state := if ∃ l ∈ ls, l.changed = true ∧ l.sub = .pending then .waitCopy else .recording } →
      q = { p with
        hold := { p.hold with queue := p.hold.queue.map fun y =>
          if y.req.tag = e.req.tag then { y with lines := ls, state := x.state } else y },
        channels := setAt p.channels e.channel { chan p e.channel with trackerHits := hits } } →
      (∀ d, x.state = .waitCopy → e.deadline = some d → d < p.now → proceed p e = expire q x) ∧
      ((x.state = .recording ∨ ∀ d, e.deadline = some d → p.now ≤ d) → proceed p e = q)))

/-- R24, R59, R67, R99, R100: a record or header write answered DONE counts one piece of it answered, a header's answer presents the records
held behind it, and the frontier rises over what is answered without a gap: past the longest run of writes presented and
answered DONE in every piece, to
the number of the last record in it. The records held behind a header are handed over in placement order. Every PLACED line
whose number the frontier has passed is DURABLE then, a channel whose TORN record it has passed has its torn flag set, and
nothing else changes with the frontier. -/
def Obligations.RecordWriteDoneMovesFrontier : Prop :=
  (∀ (p : Part) (w : List Instr) (t : DTag) (r : DownReq), getAt p.arbiter.issued t = some r →
    (∀ n j, r.purpose = .record n →
      j = p.writer.journal.map (fun x => if !x.isHeader && x.seq == n then { x with unanswered := x.unanswered - 1 } else x) →
      exec (.recordWriteDone t) ⟨p, w⟩ =
        .next ⟨settle (noteFrontier { p with
          writer := { p.writer with frontier := (popDone p.writer.frontier j).1, journal := (popDone p.writer.frontier j).2 },
          arbiter := { p.arbiter with issued := setAt p.arbiter.issued t none } }), w⟩) ∧
    (∀ i q, r.purpose = .header i →
      q = presentHeld { p with
        writer := { p.writer with journal := p.writer.journal.map fun x =>
          if x.isHeader && x.seg == i then { x with unanswered := x.unanswered - 1 } else x },
        arbiter := { p.arbiter with issued := setAt p.arbiter.issued t none } } i →
      exec (.recordWriteDone t) ⟨p, w⟩ =
        .next ⟨settle (noteFrontier { q with
          writer := { q.writer with frontier := (popDone q.writer.frontier q.writer.journal).1,
                                    journal := (popDone q.writer.frontier q.writer.journal).2 } }), w⟩)) ∧
  (∀ (f f' : Seq) (js rest : List JournalWrite), popDone f js = (f', rest) →
    ∃ run, js = run ++ rest ∧ (∀ j ∈ run, j.isDone = true) ∧ (∀ j, rest.head? = some j → j.isDone = false) ∧
      f' = ((run.filter fun j => !j.isHeader).getLast?.map (·.seq)).getD f) ∧
  (∀ (p : Part) (i : Nat) (due : JournalWrite → Bool),
    due = (fun j => !j.isHeader && j.seg == i && !j.presented) →
    presentHeld p i = { p with
      writer := { p.writer with journal := p.writer.journal.map fun j => if due j then { j with presented := true } else j },
      arbiter := { p.arbiter with
        waiting := p.arbiter.waiting ++ ((p.writer.journal.filter due).map recordRequests).flatten } }) ∧
  (∀ (p : Part) (passed : Seq → Bool), passed = (fun n => decide (n ≤ p.writer.frontier)) →
    noteFrontier p = { p with
      hold := { p.hold with queue := p.hold.queue.map fun e => { e with lines := e.lines.map fun l =>
        match l.sub with
        | .placed n => if passed n then { l with sub := .durable } else l
        | _ => l } },
      channels := p.channels.map fun ch => if ch.tornRecord.any passed then { ch with torn := true } else ch }) ∧
  (∀ j : JournalWrite, j.isDone = true ↔ j.presented = true ∧ j.unanswered = 0 ∧ j.failed = false)

/-- R6, R32, R36 to R41, R104, R117, R124, R192: when the frontier passes a COMMIT or ABORT record, or at once when the epoch left
nothing, the epoch ends. The tracker holds no line of the channel any more, the channel leaves every segment's mask, and every
CLOSED segment whose mask is then empty is FREE, or HELD with SEGMENT_HELD. The summary is latched, the counter of the outcome
counts, the live counters are 0, R_c is the epoch, torn and overflow are clear, and the channel is OPEN at the next epoch, or
IDLE and EXHAUSTED after the last. The marker in progress is settled and answered: a commit DONE, with EPOCH_TORN when it was
torn, and an abort DONE, or FAILED with TORN or FAULT. The WAIT_EPOCH entries are released before the response is sent (log
44); which of several ends comes first is the model's choice (log 12), and so is the action shown (log 47). A counter of 32 bits
counts one more, or n more, and stays at 0xFFFFFFFF (R6, R39, R41); a write to one place of a row leaves the others. -/
def Obligations.EpochEndIsOneEvent : Prop :=
  (∀ x : Word, (countUp x).toNat = min (x.toNat + 1) 0xFFFFFFFF) ∧
  (∀ (n : Nat) (x : Word), (countBy n x).toNat = min (x.toNat + n) 0xFFFFFFFF) ∧
  (∀ (α : Type) (n : Nat) (v : Vector α n) (i j : Fin n) (x : α),
    getAt (setAt v i x) j = if i = j then x else getAt v j) ∧
  (∀ (p : Part) (d : Chan), chan p d = getAt p.channels d) ∧
  ([RespCode.done, .refused, .failed].map RespCode.asResult = [.done, .refused, .failed]) ∧
  ∀ (p q s : Part) (c : Chan) (m : Marker) (ch ch' : Channel) (swept : SegEntry → SegEntry) (aborted fault : Bool)
    (code : RespCode) (why : MarkerReason),
    (∀ e ∈ p.hold.queue, forwardable p e = false) →
    ch = chan p c → ch.marker = some m →
    swept = (fun e =>
      { e with mask := e.mask &&& ~~~ (1#4 <<< c.val),
               state := if e.state = .closed ∧ e.mask &&& ~~~ (1#4 <<< c.val) = 0
                 then if p.writer.retain then .held else .free else e.state }) →
    code = (if aborted = true ∧ (fault = true ∨ ch.torn = true) then .failed else .done) →
    why = (if fault then .fault else if ch.torn then .torn else .none) →
    ch' = { ch with
      journaledWrites := 0, records := 0, trackerHits := 0, untrackedSaves := 0, holdExpiries := 0,
      summary := { epoch := ch.epoch, outcome := if aborted then .aborted else .committed,
                   journaledWrites := ch.journaledWrites, saves := ch.records, trackerHits := ch.trackerHits,
                   untrackedSaves := ch.untrackedSaves, holdExpiries := ch.holdExpiries,
                   torn := ch.torn, overflow := ch.overflow, faulted := fault },
      committed := if aborted then ch.committed else countUp ch.committed,
      aborted := if aborted then countUp ch.aborted else ch.aborted,
      resolved := ch.epoch, torn := false, overflow := false, tornRecord := none, marker := none,
      last := { ch.last with result := code.asResult, reason := why },
      state := if ch.epoch = 0xFFFFFFFF then .idle else .opened,
      exhausted := if ch.epoch = 0xFFFFFFFF then true else ch.exhausted,
      epoch := if ch.epoch = 0xFFFFFFFF then ch.epoch else ch.epoch + 1 } →
    q = { p with
      tracker := p.tracker.filter (fun x => x.channel != c),
      writer := { p.writer with table := p.writer.table.map swept },
      channels := setAt p.channels c ch',
      restore := if aborted then { p.restore with rollback := none } else p.restore,
      events := { p.events with
        flags := if p.writer.retain = true ∧ ∃ e ∈ p.writer.table, e.state = .closed ∧ (swept e).state = .held
          then p.events.flags ||| eventMask .segmentHeld else p.events.flags } } →
    s = releaseEpoch q c →
    ((aborted = false ∧ fault = false ∧
        (firstDurable p = some c ∨
          (firstDurable p = none ∧ rollbackStep p = none ∧ p.hold.lineTest = false ∧
            allChannels.find? (commitReady p) = some c ∧ ch.records = 0 ∧ ch.torn = false))) →
      internal p = some { s with
        port := { s.port with tags := setAt s.port.tags m.tag false,
                              responses := s.port.responses ++ [{ tag := m.tag, code := code, data := [] }] },
        events := { s.events with flags := if ch.torn
          then s.events.flags ||| eventMask .commitDone ||| eventMask .epochTorn
          else s.events.flags ||| eventMask .commitDone } }) ∧
    ((∃ x, aborted = true ∧ firstDurable p = none ∧ p.restore.rollback = some x ∧ x.channel = c ∧ x.fault = fault ∧
        ((∃ n, x.abortRecord = some n ∧ n ≤ p.writer.frontier) ∨
          (x.abortRecord = none ∧ x.phase = .draining ∧ (∃ n, x.start = some n ∧ n ≤ p.writer.frontier) ∧
            ch.records = 0 ∧ ch.torn = false))) →
      internal p = some { s with
        port := { s.port with tags := setAt s.port.tags m.tag false,
                              responses := s.port.responses ++ [{ tag := m.tag, code := code, data := [] }] },
        events := { s.events with flags := s.events.flags ||| eventMask .abortDone } }) ∧
    (∀ durable : Chan → Seq → Prop,
      durable = (fun d n => ∃ y, (chan p d).marker = some y ∧ y.action = .commit ∧ y.record = some n ∧
        n ≤ p.writer.frontier) →
      (firstDurable p = none ↔ ∀ d n, ¬ durable d n) ∧
      (∀ d, firstDurable p = some d → ∃ n, durable d n ∧ ∀ d' n', durable d' n' → n ≤ n'))

/-- R98, R101, R102, R125: what the halt of the writer does, whatever its cause. WRITER_HALTED is raised, the waiting requests are
withdrawn, the tracker is empty, and every write entry not in FORWARDING is answered REFUSED and leaves. Every commit in
progress is answered FAILED with WRITER_HALTED; the rollback being served and the channels of the abort queue go to
RECORDING, their markers answered the same. (A commit or a rollback whose end the frontier has brought is spared and ends,
log 52; a queued channel whose marker a drain has answered stays QUEUED, log 53; the action shown stays, log 47; the order of the answers is the model's choice, log 11; the two tests due are marks,
log 9.) A record or header write answered FAILED halts a RUNNING, SUSPENDED or FROZEN writer with RECORD_WRITE_FAULT and the
segment of the write; in the other states only the write's own failure is noted. A placement that would give a number past the last
halts it with SEQUENCE_EXHAUSTED and the active segment. -/
def Obligations.RecordWriteFailedHalts : Prop :=
  (∀ (p : Part) (cause : HaltCause) (seg : Nat) (commits served aborts : List Chan) (refused : List HoldEntry)
    (done : List Response) (chs : Vector Channel 4),
    commits = ([0, 1, 2, 3] : List Chan).filter (fun c => (chan p c).marker.any fun m =>
      m.action == .commit && !(m.record.any fun n => decide (n ≤ p.writer.frontier))) →
    served = (rollbackStranded p).filter (fun c => !commits.contains c) →
    aborts = served ++ p.restore.abortQueue.filter (fun c => (chan p c).marker.isSome && !commits.contains c) →
    refused = p.hold.queue.filter (fun e => e.isWrite && e.state != .forwarding) →
    done = (commits ++ aborts).eraseDups.filterMap (fun c => (chan p c).marker.map fun m =>
        ({ tag := m.tag, code := .failed, data := [] } : Response)) ++
      refused.map (fun e => { tag := e.req.tag, code := .refused, data := [] }) →
    (∀ c, getAt chs c =
      if c ∈ commits ∨ c ∈ aborts then
        { chan p c with state := if c ∈ aborts then .rollingBack .recording else (chan p c).state, marker := none,
                        last := { (chan p c).last with result := .failed, reason := .writerHalted } }
      else chan p c) →
    haltWriter p cause seg = { p with
      port := { p.port with tags := done.foldl (fun v x => setAt v x.tag false) p.port.tags,
                            responses := p.port.responses ++ done },
      tracker := [],
      hold := { p.hold with
        queue := p.hold.queue.filter fun x => !(refused.any fun e => e.req.tag == x.req.tag),
        lineTest := p.hold.lineTest || !refused.isEmpty, headRetry := p.hold.headRetry || !refused.isEmpty },
      slots := p.slots.map fun s => s.map fun k =>
        if refused.any (fun e => k.owner == some e.req.tag) then { k with owner := none } else k,
      writer := { p.writer with state := .halted, haltCause := cause, haltSegment := some seg, waiting := [] },
      channels := chs,
      restore := { p.restore with
        abortQueue := p.restore.abortQueue.filter fun c => !aborts.contains c,
        rollback := if served = [] then p.restore.rollback
          else p.restore.rollback.map fun x => { x with phase := .recording, cursor := none },
        status := if served = [] then p.restore.status else { p.restore.status with cursorSegment := none } },
      events := { p.events with flags := p.events.flags ||| eventMask .writerHalted } }) ∧
  (∀ (p q : Part) (w : List Instr) (t : DTag) (r : DownReq) (j : JournalWrite),
    getAt p.arbiter.issued t = some r → r.purpose.requester = .rw →
    p.writer.journal.find? (isFor r.purpose) = some j →
    q = { p with
      writer := { p.writer with
        journal := p.writer.journal.map fun x => if isFor r.purpose x then { x with failed := true } else x },
      arbiter := { p.arbiter with issued := setAt p.arbiter.issued t none } } →
    ((p.writer.state = .running ∨ p.writer.state = .suspended ∨ p.writer.state = .frozen) →
      ∃ u : Part, u = settle (haltWriter q .recordWriteFault j.seg) ∧ exec (.recordWriteFailed t) ⟨p, w⟩ = .next ⟨u, w⟩ ∧
        u.writer.state = .halted ∧ u.writer.haltCause = .recordWriteFault ∧ u.writer.haltSegment = some j.seg ∧
        eventSet u .writerHalted = true ∧ getAt u.arbiter.issued t = none ∧
        u.classifier = p.classifier ∧ u.link = p.link ∧ u.command = p.command ∧ u.power = p.power) ∧
    ((p.writer.state = .halted ∨ p.writer.state = .stopped) → exec (.recordWriteFailed t) ⟨p, w⟩ = .next ⟨settle q, w⟩)) ∧
  (∀ (p : Part) (r : PlaceReq) (i : Nat) (e : SegEntry),
    accepts p r.kind = true → activeEntry p.writer = some (i, e) →
    ((fitsActive p.classifier.geometry p.writer r.kind = true ∧ 281474976710654 < p.writer.next) ∨
      (fitsActive p.classifier.geometry p.writer r.kind = false ∧ mayOpen p.writer r.kind = true ∧
        281474976710654 < p.writer.next + (if e.used < slotsPerSegment p.classifier.geometry then 1 else 0))) →
    place p r = (haltWriter p .sequenceExhausted i, none)) ∧
  (∀ (p : Part) (c : Chan), c ∈ rollbackStranded p ↔ ∃ x, p.restore.rollback = some x ∧ x.channel = c ∧
    (chan p c).marker ≠ none ∧ ¬ (∃ n, x.abortRecord = some n ∧ n ≤ p.writer.frontier) ∧
    ¬ (x.phase = .draining ∧ (∃ n, x.start = some n ∧ n ≤ p.writer.frontier) ∧ (chan p c).records = 0 ∧
      (chan p c).torn = false)) ∧
  (∀ (u : Purpose) (j : JournalWrite), isFor u j = true ↔
    (∃ n, u = .record n ∧ j.isHeader = false ∧ j.seq = n) ∨ (∃ i, u = .header i ∧ j.isHeader = true ∧ j.seg = i))

/-! ### Online rollback -/

/-- R112, R114 to R118, R122, R123: the restore engine takes the head of the abort queue while no rollback is served, the writer is
RUNNING or SUSPENDED and no soft reset drains. The drain answers the epoch's write entries REFUSED, but for those whose copy
reads are in flight (their HELD images go, the lines showing as PENDING, log 45) and those in FORWARDING; the two tests due when
an entry leaves are marks (log 9). Settled (no write entry of the epoch, nothing outstanding),
the start point is the newest record's number and the walk list holds the segments of R118, by descending first number. When
the frontier reaches it, RESTORING reads the record at the first segment's start slot; an epoch without saves but torn, or
without a segment to walk (a rollback fault), asks for its ABORT record at once, which waits when it cannot be placed. (That a
torn epoch without saves reads no header first is the model's choice, log 56.) -/
def Obligations.RollbackIsStarted : Prop :=
  (∀ p : Part, (p.restore.rollback.isSome = true ∨ p.restore.abortQueue = [] ∨
      (p.writer.state ≠ .running ∧ p.writer.state ≠ .suspended) ∨ p.command.busy = .softReset) → abortStep p = none) ∧
  (∀ (p : Part) (c : Chan) (aborts : List Chan) (mine gone kept : List HoldEntry),
    p.restore.rollback = none → p.restore.abortQueue = c :: aborts →
    (p.writer.state = .running ∨ p.writer.state = .suspended) → p.command.busy ≠ .softReset → p.power.frozen = false →
    (p.hold.queue.map fun x => x.req.tag).Nodup →
    mine = p.hold.queue.filter (fun x => x.isWrite && x.channel == c && x.epoch == some (chan p c).epoch) →
    gone = mine.filter (fun x => x.state == .waitLine || x.state == .waitCopy || x.state == .waitSpace ||
      x.state == .recording || (x.state == .copying && x.lines.all fun l => l.sub != .copying)) →
    kept = mine.filter (fun x => x.state == .copying && x.lines.any fun l => l.sub == .copying) →
    abortStep p = some { p with
      port := { p.port with
        tags := gone.foldl (fun v x => setAt v x.req.tag false) p.port.tags,
        responses := p.port.responses ++ gone.map fun x => { tag := x.req.tag, code := .refused, data := [] } },
      tracker := p.tracker.filter fun x =>
        !((gone ++ kept).any fun y => y.lines.any fun l => l.isHeld && l.line == x.line),
      hold := { p.hold with
        queue := (p.hold.queue.filter fun x => !(gone.any fun y => y.req.tag == x.req.tag)).map fun x =>
          if kept.any (fun y => y.req.tag == x.req.tag) then
            { x with lines := x.lines.map fun l => if l.isHeld then { l with sub := .pending } else l }
          else x,
        lineTest := p.hold.lineTest || !gone.isEmpty, headRetry := p.hold.headRetry || !gone.isEmpty },
      slots := p.slots.map fun s => s.map fun k =>
        if gone.any (fun y => k.owner == some y.req.tag) then { k with owner := none } else k,
      channels := setAt p.channels c { chan p c with state := .rollingBack .draining },
      restore := { p.restore with
        abortQueue := aborts,
        rollback := some { channel := c, epoch := (chan p c).epoch, phase := .draining, start := none, walk := [],
                           cursor := none, fault := false, found := 0, abortRecord := none, stage := .idle },
        status := { channel := some c, restored := 0, skipped := 0, cursorSegment := none } } }) ∧
  (∀ (p : Part) (x : Rollback), p.restore.rollback = some x → (chan p x.channel).marker.isSome = true →
    x.abortRecord = none → x.phase = .draining →
    (x.start = none →
      ((∃ e ∈ p.hold.queue, e.isWrite = true ∧ e.channel = x.channel ∧ e.epoch = some x.epoch) ∨
        (chan p x.channel).outstanding ≠ 0 → rollbackStep p = none) ∧
      ((∀ e ∈ p.hold.queue, e.isWrite = true → e.channel = x.channel → e.epoch ≠ some x.epoch) →
        (chan p x.channel).outstanding = 0 →
        ∃ walk : List WalkSegment,
          rollbackStep p = some { p with restore := { p.restore with
            rollback := some { x with start := some (p.writer.next - 1), walk := walk } } } ∧
          walk.Pairwise (fun a b => b.first ≤ a.first) ∧
          walk.Perm ((p.writer.table.mapIdx fun i e =>
            if e.mask.getLsbD x.channel.val = true ∧ (e.state = .closed ∨ e.state = .active) ∧ 2 < e.used ∧
                e.first ≤ p.writer.next - 1 then
              some ({ seg := i, startSlot := e.used - e.lastLen, first := e.first,
                      endsAtS := decide (e.state = .active) } : WalkSegment)
            else none).filterMap id))) ∧
    (∀ s, x.start = some s → p.writer.frontier < s → rollbackStep p = none) ∧
    (∀ s s0 rest, x.start = some s → s ≤ p.writer.frontier → (chan p x.channel).records ≠ 0 → x.walk = s0 :: rest →
      rollbackStep p = some { p with
        channels := setAt p.channels x.channel { chan p x.channel with state := .rollingBack .restoring },
        restore := { p.restore with
          rollback := some { x with phase := .restoring, stage := .header,
                                    cursor := some { slot := s0.startSlot, expected := none } },
          status := { p.restore.status with cursorSegment := some s0.seg } },
        arbiter := { p.arbiter with waiting := p.arbiter.waiting ++
          [engineRead (.rollback 0) (slotAddr p.classifier.geometry s0.seg s0.startSlot) 32] } }) ∧
    (∀ s fault ch u req, x.start = some s → s ≤ p.writer.frontier → ch = chan p x.channel →
      ((ch.records = 0 ∧ ch.torn = true ∧ fault = false) ∨ (ch.records ≠ 0 ∧ x.walk = [] ∧ x.found = 0 ∧ fault = true)) →
      u = { p with
        channels := setAt p.channels x.channel { ch with state := .rollingBack .recording },
        restore := { p.restore with
          rollback := some { x with phase := .recording, stage := .idle, cursor := none, fault := x.fault || fault },
          status := { p.restore.status with cursorSegment := none } },
        events := { p.events with
          flags := if fault then p.events.flags ||| eventMask .rollbackFault else p.events.flags } } →
      req = { kind := .abort, channel := x.channel, epoch := x.epoch, torn := ch.torn, fault := x.fault || fault,
              overflowed := ch.overflow, line := 0, region := 0xFFFF, image := [], undoCount := ch.records } →
      rollbackStep p = some (match place u req with
        | (v, some n) => { v with restore := { v.restore with
            rollback := v.restore.rollback.map fun y => { y with abortRecord := some n } } }
        | (v, none) => if v.restore.rollback.any fun y => (chan v y.channel).marker.isSome
            then { v with writer := { v.writer with waiting := v.writer.waiting ++ [req] } } else v)))

/-- R88, R119 to R123, R125 to R127, R154: the walk of a rollback. A header of the aborted epoch that passes its test is followed by the read of
its two payload slots; when both pieces are answered and the check word matches, UNDO found counts up and the line is written
with its old image, and the write answered DONE counts a line restored. A payload or restore write that fails, and a line of the
journal area, is a rollback fault that skips the line. After these and after any other record that passes, the walk goes on:
it ends when all records are found; else it reads the header the back-link names, or leaves the segment for the next of the
list (a rollback fault where the first record's number is wrong, the back-link leads below slot 2 (log 17), or the header was
not read or fails). After the last segment a record not reached is one more fault. The ended walk enters RECORDING and asks for
its ABORT record, which waits when it cannot be placed. The number wanted is the expected one; at a segment's start slot it is S,
or one of the segment's range. A rollback that a halt, a freeze or a drain has stopped (its marker is
answered) issues nothing more: the answer to its request in flight is noted, a line restored counts and a failure is a fault,
with the data of a read unused by the model's choice (log 14). -/
def Obligations.WalkRestoresLine : Prop :=
  (∀ (p q : Part) (w : List Instr) (t : DTag) (r : DownReq) (k : Nat) (x : Rollback) (s0 : WalkSegment)
    (rest : List WalkSegment) (cur : Cursor) (g : Geometry) (ch : Channel) (total : Nat)
    (at' : Rollback → RollbackStatus → BitVec 18 → Part)
    (reads : Nat → Nat → Option Seq → Rollback → RollbackStatus → BitVec 18 → Part)
    (ends next : Rollback → RollbackStatus → BitVec 18 → Part) (request : Rollback → PlaceReq),
    getAt p.arbiter.issued t = some r → r.purpose = .rollback k → p.restore.rollback = some x →
    g = p.classifier.geometry → ch = chan p x.channel → ch.marker.isSome = true → total = ch.records.toNat →
    x.walk = s0 :: rest → x.cursor = some cur →
    q = { p with arbiter := { p.arbiter with issued := setAt p.arbiter.issued t none } } →
    at' = (fun y st fl => { q with restore := { p.restore with rollback := some y, status := st },
                                   events := { p.events with flags := fl } }) →
    request = (fun y =>
      { kind := .abort, channel := x.channel, epoch := x.epoch, torn := ch.torn, fault := y.fault,
        overflowed := ch.overflow, line := 0, region := 0xFFFF, image := [], undoCount := ch.records }) →
    reads = (fun seg slot expected y st fl =>
      { at' { y with stage := .header, cursor := some { slot := slot, expected := expected } }
          { st with cursorSegment := some seg } fl with
        arbiter := { q.arbiter with
          waiting := p.arbiter.waiting ++ [engineRead (.rollback 0) (slotAddr g seg slot) 32] } }) →
    ends = (fun y st fl =>
      match place
        { at' { y with phase := .recording, stage := .idle, cursor := none } { st with cursorSegment := none } fl with
          channels := setAt p.channels x.channel { ch with state := .rollingBack .recording } }
        (request y) with
      | (v, some n) => { v with restore := { v.restore with
          rollback := v.restore.rollback.map fun z => { z with abortRecord := some n } } }
      | (v, none) => if v.restore.rollback.any fun z => (chan v z.channel).marker.isSome
          then { v with writer := { v.writer with waiting := v.writer.waiting ++ [request y] } } else v) →
    next = (fun y st fl =>
      match rest with
      | s1 :: _ => reads s1.seg s1.startSlot none { y with walk := rest } st fl
      | [] => if y.found < total then ends { y with walk := [], fault := true } st (fl ||| eventMask .rollbackFault)
          else ends { y with walk := [] } st fl) →
    (∀ data h, x.stage = .header → h = headerOfBytes data → headerShape h cur.slot (slotsPerSegment g) = true →
      walkSeqOk x s0 cur.expected h.seq = true → h.kind = some .undo → h.channel = x.channel → h.epoch = x.epoch →
      exec (.rollbackHeaderReadAnswered t (.done data)) ⟨p, w⟩ =
        .next ⟨settle { q with
          restore := { p.restore with rollback := some { x with
            stage := .payload h (freshPieces (slotAddr g s0.seg (cur.slot + 1)) 64) } },
          arbiter := { q.arbiter with
            waiting := p.arbiter.waiting ++ readPieces .rollback (slotAddr g s0.seg (cur.slot + 1)) 64 } }, w⟩) ∧
    (∀ a, x.stage = .header →
      (a = .failed ∨ ∃ data h, a = .done data ∧ h = headerOfBytes data ∧
        (headerShape h cur.slot (slotsPerSegment g) = false ∨ walkSeqOk x s0 cur.expected h.seq = false ∨
          (h.kind ≠ some .undo ∧ checkMatches g.identity h [] = false))) →
      exec (.rollbackHeaderReadAnswered t a) ⟨p, w⟩ =
        .next ⟨settle (next { x with stage := .idle, fault := true } p.restore.status
          (p.events.flags ||| eventMask .rollbackFault)), w⟩) ∧
    (∀ a h old ps, x.stage = .payload h old → ps = old.set k (match a with | .done data => .done data | .failed => .failed) →
      (Piece.waiting ∈ ps →
        exec (.rollbackPayloadReadAnswered t a) ⟨p, w⟩ =
          .next ⟨settle { q with restore := { p.restore with rollback := some { x with stage := .payload h ps } } }, w⟩) ∧
      ((∀ y ∈ ps, ∃ d, y = .done d) → checkMatches g.identity h (payloadWords (gatheredData ps)) = true →
        inWindow g h.line.toNat = false →
        exec (.rollbackPayloadReadAnswered t a) ⟨p, w⟩ =
          .next ⟨settle { q with
            restore := { p.restore with
              rollback := some { x with found := min (x.found + 1) 0xFFFFFFFF, stage := .restore h } },
            arbiter := { q.arbiter with
              waiting := p.arbiter.waiting ++ [engineWrite (.rollback 0) h.line.toNat (gatheredData ps)] } }, w⟩)) ∧
    (∀ (i : Instr) (h : HeaderSlot) (y : Rollback) (st : RollbackStatus) (fl : BitVec 18),
      ((∃ data, i = .rollbackHeaderReadAnswered t (.done data) ∧ x.stage = .header ∧ h = headerOfBytes data ∧
          headerShape h cur.slot (slotsPerSegment g) = true ∧ walkSeqOk x s0 cur.expected h.seq = true ∧
          (h.kind = some .undo → ¬ (h.channel = x.channel ∧ h.epoch = x.epoch)) ∧
          (h.kind ≠ some .undo → checkMatches g.identity h [] = true) ∧
          y = { x with stage := .idle } ∧ st = p.restore.status ∧ fl = p.events.flags) ∨
        (∃ a old ps, i = .rollbackPayloadReadAnswered t a ∧ x.stage = .payload h old ∧
          ps = old.set k (match a with | .done data => .done data | .failed => .failed) ∧ Piece.waiting ∉ ps ∧
          (Piece.failed ∈ ps ∨ checkMatches g.identity h (payloadWords (gatheredData ps)) = false ∨
            inWindow g h.line.toNat = true) ∧
          y = { x with stage := .idle, found := min (x.found + 1) 0xFFFFFFFF, fault := true } ∧
          st = { p.restore.status with skipped := p.restore.status.skipped + 1 } ∧
          fl = p.events.flags ||| eventMask .rollbackFault) ∨
        (i = .rollbackRestoreWriteAnswered t .done ∧ x.stage = .restore h ∧ y = { x with stage := .idle } ∧
          st = { p.restore.status with restored := p.restore.status.restored + 1 } ∧ fl = p.events.flags) ∨
        (i = .rollbackRestoreWriteAnswered t .failed ∧ x.stage = .restore h ∧ y = { x with stage := .idle, fault := true } ∧
          st = { p.restore.status with skipped := p.restore.status.skipped + 1 } ∧
          fl = p.events.flags ||| eventMask .rollbackFault)) →
      (y.found = total → exec i ⟨p, w⟩ = .next ⟨settle (ends y st fl), w⟩) ∧
      (y.found ≠ total → h.backLink ≠ 0 → 2 + h.backLink ≤ cur.slot →
        exec i ⟨p, w⟩ =
          .next ⟨settle (reads s0.seg (cur.slot - h.backLink) (some (h.seq - 1)) y st fl), w⟩) ∧
      (y.found ≠ total → h.backLink = 0 → h.seq = s0.first → exec i ⟨p, w⟩ = .next ⟨settle (next y st fl), w⟩) ∧
      (y.found ≠ total → (if h.backLink = 0 then h.seq ≠ s0.first else cur.slot < 2 + h.backLink) →
        exec i ⟨p, w⟩ =
          .next ⟨settle (next { y with fault := true } st (fl ||| eventMask .rollbackFault)), w⟩))) ∧
  (∀ (p : Part) (w : List Instr) (t : DTag) (r : DownReq) (k : Nat) (x : Rollback) (i : Instr) (y : Rollback)
    (st : RollbackStatus) (fl : BitVec 18),
    getAt p.arbiter.issued t = some r → r.purpose = .rollback k → p.restore.rollback = some x →
    (chan p x.channel).marker = none →
    ((∃ data, i = .rollbackHeaderReadAnswered t (.done data) ∧ x.stage = .header ∧
        y = { x with stage := .idle } ∧ st = p.restore.status ∧ fl = p.events.flags) ∨
      (i = .rollbackHeaderReadAnswered t .failed ∧ x.stage = .header ∧
        y = { x with stage := .idle, fault := true } ∧ st = p.restore.status ∧
        fl = p.events.flags ||| eventMask .rollbackFault) ∨
      (∃ a h old ps, i = .rollbackPayloadReadAnswered t a ∧ x.stage = .payload h old ∧
        ps = old.set k (match a with | .done data => .done data | .failed => .failed) ∧
        ((Piece.waiting ∈ ps ∧ y = { x with stage := .payload h ps } ∧ st = p.restore.status ∧ fl = p.events.flags) ∨
          ((∀ z ∈ ps, ∃ d, z = .done d) ∧ y = { x with stage := .idle } ∧ st = p.restore.status ∧
            fl = p.events.flags) ∨
          (Piece.waiting ∉ ps ∧ Piece.failed ∈ ps ∧ y = { x with stage := .idle, fault := true } ∧
            st = { p.restore.status with skipped := p.restore.status.skipped + 1 } ∧
            fl = p.events.flags ||| eventMask .rollbackFault))) ∨
      (∃ h, i = .rollbackRestoreWriteAnswered t .done ∧ x.stage = .restore h ∧ y = { x with stage := .idle } ∧
        st = { p.restore.status with restored := p.restore.status.restored + 1 } ∧ fl = p.events.flags) ∨
      (∃ h, i = .rollbackRestoreWriteAnswered t .failed ∧ x.stage = .restore h ∧
        y = { x with stage := .idle, fault := true } ∧
        st = { p.restore.status with skipped := p.restore.status.skipped + 1 } ∧
        fl = p.events.flags ||| eventMask .rollbackFault)) →
    exec i ⟨p, w⟩ =
      .next ⟨settle { p with
        restore := { p.restore with rollback := some y, status := st },
        arbiter := { p.arbiter with issued := setAt p.arbiter.issued t none },
        events := { p.events with flags := fl } }, w⟩) ∧
  (∀ (x : Rollback) (s : WalkSegment) (m n : Seq),
    (walkSeqOk x s (some m) n = true ↔ n = m) ∧
    (walkSeqOk x s none n = true ↔ ∃ top, x.start = some top ∧
      if s.endsAtS then n = top else s.first ≤ n ∧ n ≤ top))

/-! ### Recovery and format -/

/-- R74 to R77, R133, R134, R140: a segment header that fails its test leaves the segment INVALID, a valid one counts, and an
EMPTY one leaves it EMPTY; the next usable segment's header is read. A USED header counts too, its first number and R_c are
taken into the tables, and its record slots are read from slot 2 on. A read answered FAILED ends recovery with READ_FAULT and
the segment. -/
def Obligations.ScanHeaderIsTaken : Prop :=
  ∀ (p : Part) (w : List Instr) (t : DTag) (r : DownReq) (k s : Nat) (g : Geometry) (tb : RecoveryTables),
    getAt p.arbiter.issued t = some r → r.purpose = .recovery k → p.restore.stage = .scanHeader s →
    p.command.busy = .recover → p.power.frozen = false → g = p.classifier.geometry → tb = p.restore.tables →
    (∀ data j, (usableSegments g).find? (fun x => decide (s < x)) = some j →
      (segmentHeaderValid g s data = false ∨ segmentHeaderUsed data = false) →
      exec (.scanReadAnswered t (.done data)) ⟨p, w⟩ =
        .next ⟨{ p with
          restore := { p.restore with
            stage := .scanHeader j,
            tables := { tb with
              segments := tb.segments.modify s fun x =>
                { x with status := if segmentHeaderValid g s data then .empty else .invalid },
              validHeaders := if segmentHeaderValid g s data then tb.validHeaders + 1 else tb.validHeaders } },
          arbiter := { p.arbiter with
            waiting := p.arbiter.waiting ++ [engineRead (.recovery 0) (segmentAddr g j) 64],
            issued := setAt p.arbiter.issued t none } }, w⟩) ∧
    (∀ data, segmentHeaderValid g s data = true → segmentHeaderUsed data = true → 2 < slotsPerSegment g →
      ∃ bounds : Vector ChannelScan 4,
        (∀ c, getAt bounds c = { getAt tb.channels c with
          headerBound := if (getAt tb.channels c).headerBound.toNat ≤ (segmentHeaderResolved data c).toNat
            then segmentHeaderResolved data c else (getAt tb.channels c).headerBound }) ∧
        exec (.scanReadAnswered t (.done data)) ⟨p, w⟩ =
          .next ⟨{ p with
            restore := { p.restore with
              stage := .scanSlot s 2 (segmentHeaderFirst data),
              tables := { tb with
                segments := tb.segments.modify s fun x => { x with status := .used, first := segmentHeaderFirst data },
                channels := bounds,
                validHeaders := tb.validHeaders + 1, usedHeaders := tb.usedHeaders + 1,
                highestSeq := max tb.highestSeq (segmentHeaderFirst data - 1) } },
            arbiter := { p.arbiter with
              waiting := p.arbiter.waiting ++ [engineRead (.recovery 0) (slotAddr g s 2) 32],
              issued := setAt p.arbiter.issued t none } }, w⟩) ∧
    exec (.scanReadAnswered t .failed) ⟨p, w⟩ =
      .next ⟨{ p with
        restore := { p.restore with
          recovery := .failed, lastFailure := .readFault, stage := .idle, left := [],
          report := { p.restore.report with outcome := .failed, reason := .readFault, faultSegment := some s,
                                            faultSeq := none, faultLine := none, secondSegment := none } },
        arbiter := { p.arbiter with issued := setAt p.arbiter.issued t none },
        command := { busy := .none, last := { command := .recover, result := .failed, reason := .readFault,
                                              detail := .none, overlap := 0 } },
        events := { p.events with flags := p.events.flags ||| eventMask .recoveryFailed } }, w⟩

/-- R87, R131, R133, R134, R140: the forward scan. A header slot of kind UNDO whose three slots fit the segment is followed by the read of
the whole record, one piece at a time. A FAILED read of a header slot, or of a piece, ends recovery with READ_FAULT and the
segment at once. A record that passes the
test of R86 is accepted: its number is the segment's last and raises the highest seen, and the items of its kind and channel
are raised (of two end records of one epoch the later accepted is kept, log 38). After a PAD or a record that fails, the
segment's scan ends with that reason and the next usable segment's header is read; after any other the next slot is read, or
the scan ends FULL. (The last usable segment's end: ScanEndsWithChecks.) -/
def Obligations.ScanRecordIsTaken : Prop :=
  (∀ (p q : Part) (w : List Instr) (t : DTag) (r : DownReq) (k s slot : Nat) (n : Seq) (g : Geometry) (tb : RecoveryTables)
    (h : HeaderSlot) (data : List Byte),
    getAt p.arbiter.issued t = some r → r.purpose = .recovery k → p.command.busy = .recover → p.power.frozen = false →
    g = p.classifier.geometry → tb = p.restore.tables →
    q = { p with arbiter := { p.arbiter with issued := setAt p.arbiter.issued t none } } →
    (p.restore.stage = .scanSlot s slot n → h = headerOfBytes data →
      h.kind = some .undo → slot + 3 ≤ slotsPerSegment g →
      exec (.scanReadAnswered t (.done data)) ⟨p, w⟩ =
        .next ⟨{ q with
          restore := { p.restore with stage := .scanRecord s slot n (freshPieces (slotAddr g s slot) 96) },
          arbiter := { q.arbiter with waiting := p.arbiter.waiting ++
            (readPieces .recovery (slotAddr g s slot) 96).take 1 } }, w⟩) ∧
    ((p.restore.stage = .scanSlot s slot n ∨ ∃ ps, p.restore.stage = .scanRecord s slot n ps) →
      exec (.scanReadAnswered t .failed) ⟨p, w⟩ =
        .next ⟨{ q with
          restore := { p.restore with
            recovery := .failed, lastFailure := .readFault, stage := .idle, left := [],
            report := { p.restore.report with outcome := .failed, reason := .readFault, faultSegment := some s,
                                              faultSeq := none, faultLine := none, secondSegment := none } },
          command := { busy := .none, last := { command := .recover, result := .failed, reason := .readFault,
                                                detail := .none, overlap := 0 } },
          events := { p.events with flags := p.events.flags ||| eventMask .recoveryFailed } }, w⟩) ∧
    (∀ ps, p.restore.stage = .scanRecord s slot n ps →
      ((ps.set k (.done data)).any (· == .waiting) = true →
        exec (.scanReadAnswered t (.done data)) ⟨p, w⟩ =
          .next ⟨{ q with
            restore := { p.restore with stage := .scanRecord s slot n (ps.set k (.done data)) },
            arbiter := { q.arbiter with waiting := p.arbiter.waiting ++
              ((readPieces .recovery (slotAddr g s slot) 96).drop (k + 1)).take 1 } }, w⟩)) ∧
    (∀ image, ((p.restore.stage = .scanSlot s slot n ∧ h = headerOfBytes data ∧ image = [] ∧
          ¬ (h.kind = some .undo ∧ slot + 3 ≤ slotsPerSegment g)) ∨
        (∃ ps bs, p.restore.stage = .scanRecord s slot n ps ∧ (∀ y ∈ ps.set k (.done data), ∃ d, y = .done d) ∧
          bs = gatheredData (ps.set k (.done data)) ∧ h = headerOfBytes bs ∧ image = bs.drop 32)) →
      (∀ j, (usableSegments g).find? (fun x => decide (s < x)) = some j →
        (recordValid g.identity h image slot (slotsPerSegment g) n = false ∨ h.kind = some .pad) →
        exec (.scanReadAnswered t (.done data)) ⟨p, w⟩ =
          .next ⟨{ q with
            restore := { p.restore with
              stage := .scanHeader j,
              tables := if recordValid g.identity h image slot (slotsPerSegment g) n
                then { tb with
                  segments := tb.segments.modify s fun x =>
                    { x with last := some (n, slot), accepted := x.accepted + 1, ended := some .pad },
                  highestSeq := max tb.highestSeq n }
                else { tb with segments := tb.segments.modify s fun x => { x with ended := some .invalid } } },
            arbiter := { q.arbiter with waiting := p.arbiter.waiting ++
              [engineRead (.recovery 0) (segmentAddr g j) 64] } }, w⟩) ∧
      (∀ kind next seg chs j, recordValid g.identity h image slot (slotsPerSegment g) n = true →
        h.kind = some kind → kind ≠ .pad → next = slot + (if kind = .undo then 3 else 1) →
        (next < slotsPerSegment g ∨ (usableSegments g).find? (fun x => decide (s < x)) = some j) →
        seg = (fun x : SegmentScan =>
          { x with last := some (n, slot), accepted := x.accepted + 1,
                   highest := if kind = .undo
                     then setAt x.highest h.channel (raised h.epoch (getAt x.highest h.channel)) else x.highest,
                   ended := if next < slotsPerSegment g then x.ended else some .full }) →
        chs = setAt tb.channels h.channel
          (match kind with
            | .undo => { getAt tb.channels h.channel with
                highestSaved := raised h.epoch (getAt tb.channels h.channel).highestSaved }
            | .torn => { getAt tb.channels h.channel with
                highestSaved := raised h.epoch (getAt tb.channels h.channel).highestSaved,
                highestTorn := raised h.epoch (getAt tb.channels h.channel).highestTorn }
            | _ => { getAt tb.channels h.channel with lastEnd := newerEnd h (getAt tb.channels h.channel).lastEnd }) →
        exec (.scanReadAnswered t (.done data)) ⟨p, w⟩ =
          .next ⟨{ q with
            restore := { p.restore with
              stage := if next < slotsPerSegment g then .scanSlot s next (n + 1) else .scanHeader j,
              tables := { tb with segments := tb.segments.modify s seg, channels := chs,
                                  highestSeq := max tb.highestSeq n } },
            arbiter := { q.arbiter with waiting := p.arbiter.waiting ++
              [if next < slotsPerSegment g then engineRead (.recovery 0) (slotAddr g s next) 32
               else engineRead (.recovery 0) (segmentAddr g j) 64] } }, w⟩))) ∧
  (∀ x e : Epoch, raised x none = some x ∧ raised x (some e) = some (if e.toNat ≤ x.toNat then x else e)) ∧
  (∀ (h : HeaderSlot) (old : Option EndRecord),
    newerEnd h old =
      if ∃ r, old = some r ∧ h.epoch.toNat < r.epoch.toNat then old
      else some { isAbort := decide (h.kind = some .abort), epoch := h.epoch, torn := h.tornFlag, fault := h.faultFlag,
                  overflowed := h.overflowedFlag, undoCount := h.w4 }) ∧
  (∀ a len : Nat, freshPieces a len =
    List.replicate (if a / 256 = (a + (len - 1)) / 256 then 1 else 2) Piece.waiting) ∧
  (∀ ps : List Piece, gatheredData ps = (ps.map fun x => match x with
    | .done d => d
    | _ => []).flatten)

/-- R77, R87, R133 to R136, R138, R140: the end of the scan. The last usable segment's scan ends on a header that fails its test,
on an EMPTY header, on a record that fails its test, on a PAD, or on a record after which no slot is left (FULL); then the
tables are checked. No valid header is NO_JOURNAL, and two segments that claim a common number are JOURNAL_INCONSISTENT.
Otherwise each channel's R_c, open epoch and torn found are derived; when a segment needs restoring, RESTORING reads the last
record of the one with the highest first number; else REBASING writes the ACTIVE header of the lowest usable segment with the
rebased R_c, or fails with SEQUENCE_EXHAUSTED (log 26; of two end records of one epoch the later is kept, log 38). -/
def Obligations.ScanEndsWithChecks : Prop :=
  (∀ (p q : Part) (w : List Instr) (t : DTag) (r : DownReq) (k s : Nat) (g : Geometry) (tb : RecoveryTables) (data : List Byte)
    (chs : Vector ChannelReport 4) (first : Seq) (fails : FailureReason → Option Nat → Option Nat → Part → Part),
    getAt p.arbiter.issued t = some r → r.purpose = .recovery k →
    p.command.busy = .recover → p.power.frozen = false → g = p.classifier.geometry →
    (usableSegments g).find? (fun x => decide (s < x)) = none →
    ((p.restore.stage = .scanHeader s ∧ segmentHeaderValid g s data = false ∧
        tb = { p.restore.tables with
          segments := p.restore.tables.segments.modify s fun x => { x with status := .invalid } }) ∨
      (p.restore.stage = .scanHeader s ∧ segmentHeaderValid g s data = true ∧ segmentHeaderUsed data = false ∧
        tb = { p.restore.tables with
          segments := p.restore.tables.segments.modify s fun x => { x with status := .empty },
          validHeaders := p.restore.tables.validHeaders + 1 }) ∨
      (∃ slot n h image,
        ((p.restore.stage = .scanSlot s slot n ∧ h = headerOfBytes data ∧ image = [] ∧
            ¬ (h.kind = some .undo ∧ slot + 3 ≤ slotsPerSegment g)) ∨
          (∃ ps bs, p.restore.stage = .scanRecord s slot n ps ∧ (∀ y ∈ ps.set k (.done data), ∃ d, y = .done d) ∧
            bs = gatheredData (ps.set k (.done data)) ∧ h = headerOfBytes bs ∧ image = bs.drop 32)) ∧
        ((recordValid g.identity h image slot (slotsPerSegment g) n = false ∧
            tb = { p.restore.tables with
              segments := p.restore.tables.segments.modify s fun x => { x with ended := some .invalid } }) ∨
          (recordValid g.identity h image slot (slotsPerSegment g) n = true ∧ h.kind = some .pad ∧
            tb = { p.restore.tables with
              segments := p.restore.tables.segments.modify s fun x =>
                { x with last := some (n, slot), accepted := x.accepted + 1, ended := some .pad },
              highestSeq := max p.restore.tables.highestSeq n }) ∨
          (∃ kind y, recordValid g.identity h image slot (slotsPerSegment g) n = true ∧ h.kind = some kind ∧ kind ≠ .pad ∧
            slotsPerSegment g ≤ slot + (if kind = .undo then 3 else 1) ∧ y = getAt p.restore.tables.channels h.channel ∧
            tb = { p.restore.tables with
              segments := p.restore.tables.segments.modify s fun x =>
                { x with last := some (n, slot), accepted := x.accepted + 1, ended := some .full,
                         highest := if kind = .undo
                           then setAt x.highest h.channel (raised h.epoch (getAt x.highest h.channel)) else x.highest },
              channels := setAt p.restore.tables.channels h.channel
                (match kind with
                  | .undo => { y with highestSaved := raised h.epoch y.highestSaved }
                  | .torn => { y with highestSaved := raised h.epoch y.highestSaved,
                                      highestTorn := raised h.epoch y.highestTorn }
                  | _ => { y with lastEnd := newerEnd h y.lastEnd }),
              highestSeq := max p.restore.tables.highestSeq n })))) →
    q = { p with restore := { p.restore with tables := tb },
                 arbiter := { p.arbiter with issued := setAt p.arbiter.issued t none } } →
    (∀ c, getAt chs c = { getAt p.restore.report.channels c with
      resolved := derivedResolved (getAt tb.channels c),
      openEpoch := if exceeds (getAt tb.channels c).highestSaved (derivedResolved (getAt tb.channels c))
        then (getAt tb.channels c).highestSaved else none,
      tornFound := exceeds (getAt tb.channels c).highestTorn (derivedResolved (getAt tb.channels c)) }) →
    first = tb.highestSeq + 1 →
    fails = (fun why one two u => { u with
      restore := { u.restore with
        recovery := .failed, lastFailure := why, stage := .idle, left := [],
        report := { u.restore.report with outcome := .failed, reason := why, faultSegment := one, faultSeq := none,
                                          faultLine := none, secondSegment := two } },
      command := { busy := .none, last := { command := .recover, result := .failed, reason := why.asReason,
                                            detail := .none, overlap := 0 } },
      events := { u.events with flags := u.events.flags ||| eventMask .recoveryFailed } }) →
      (tb.validHeaders = 0 →
        exec (.scanReadAnswered t (.done data)) ⟨p, w⟩ = .next ⟨fails .noJournal none none q, w⟩) ∧
      (∀ a b, tb.validHeaders ≠ 0 → overlappingClaims (claims tb) = some (a, b) →
        exec (.scanReadAnswered t (.done data)) ⟨p, w⟩ = .next ⟨fails .journalInconsistent (some a) (some b) q, w⟩) ∧
      (tb.validHeaders ≠ 0 → overlappingClaims (claims tb) = none →
        (∀ x ∈ tb.segments, ∀ c, exceeds (getAt x.highest c) (derivedResolved (getAt tb.channels c)) = false) →
        (first ≤ 281474976710654 →
          exec (.scanReadAnswered t (.done data)) ⟨p, w⟩ =
            .next ⟨{ q with
              restore := { q.restore with
                recovery := .rebasing, stage := .activeHeader (lowestUsable g),
                report := { p.restore.report with newFirst := first, channels := chs.map ChannelReport.rebased } },
              arbiter := { q.arbiter with waiting := p.arbiter.waiting ++
                [engineWrite (.recovery 0) (segmentAddr g (lowestUsable g))
                  (segmentHeaderBytes g (lowestUsable g) true first
                    (chs.map fun y => (ChannelReport.rebased y).resolved))] } }, w⟩) ∧
        (281474976710654 < first →
          exec (.scanReadAnswered t (.done data)) ⟨p, w⟩ =
            .next ⟨fails .sequenceExhausted none none { q with
              restore := { q.restore with
                recovery := .rebasing,
                report := { p.restore.report with newFirst := first, channels := chs } } }, w⟩)) ∧
      (∀ a rest n slot, tb.validHeaders ≠ 0 → overlappingClaims (claims tb) = none →
        restoreOrder { q with restore := { q.restore with report := { p.restore.report with channels := chs } } } = a :: rest →
        (tb.segments.getD a SegmentScan.notRead).last = some (n, slot) →
        exec (.scanReadAnswered t (.done data)) ⟨p, w⟩ =
          .next ⟨{ q with
            restore := { q.restore with
              recovery := .restoring, stage := .backHeader a slot n, left := rest,
              report := { p.restore.report with channels := chs } },
            arbiter := { q.arbiter with waiting := p.arbiter.waiting ++
              [engineRead (.recovery 0) (slotAddr g a slot) 32] } }, w⟩)) ∧
  (∀ t : ChannelScan, (derivedResolved t).toNat = max t.headerBound.toNat ((t.lastEnd.map (·.epoch.toNat)).getD 0)) ∧
  (∀ (e : Option Epoch) (r : Epoch), exceeds e r = true ↔ ∃ x, e = some x ∧ r.toNat < x.toNat) ∧
  (∀ x : ChannelReport, (ChannelReport.rebased x).resolved.toNat =
    max x.resolved.toNat ((x.openEpoch.map (·.toNat)).getD 0)) ∧
  (∀ (tb : RecoveryTables) (a : Nat) (first last : Seq), (a, first, last) ∈ claims tb ↔
    ∃ x slot, tb.segments[a]? = some x ∧ x.status = .used ∧ x.first = first ∧ x.last = some (last, slot)) ∧
  (∀ tb : RecoveryTables, (claims tb).Pairwise fun x y => x.1 < y.1) ∧
  (∀ (cs : List (Nat × Seq × Seq)) (common : Nat × Seq × Seq → Nat × Seq × Seq → Prop),
    common = (fun x y => ∃ n, x.2.1 ≤ n ∧ n ≤ x.2.2 ∧ y.2.1 ≤ n ∧ n ≤ y.2.2) →
    cs.Pairwise (fun x y => x.1 < y.1) → (∀ x ∈ cs, x.2.1 ≤ x.2.2) →
    (overlappingClaims cs = none ↔ cs.Pairwise fun x y => ¬ common x y) ∧
    (∀ a b, overlappingClaims cs = some (a, b) → ∃ before x between y after,
      cs = before ++ x :: (between ++ y :: after) ∧ x.1 = a ∧ y.1 = b ∧ common x y ∧ (∀ z ∈ between, ¬ common x z) ∧
        ∀ z ∈ before, ∀ u ∈ cs, z.1 < u.1 → ¬ common z u)) ∧
  (∀ p : Part, ∃ order : List (Nat × Seq), restoreOrder p = order.map (·.1) ∧
    order.Pairwise (fun a b => b.2 ≤ a.2) ∧
    order.Perm ((p.restore.tables.segments.mapIdx fun i x =>
      if ([0, 1, 2, 3] : List Chan).any (fun c => exceeds (getAt x.highest c) (getAt p.restore.report.channels c).resolved)
        then some (i, x.first) else none).filterMap id)) ∧
  ([FailureReason.none, .readFault, .noJournal, .journalInconsistent, .restoreFault, .sequenceExhausted, .rebaseFault,
      .frozen].map FailureReason.asReason =
    [.none, .readFault, .noJournal, .journalInconsistent, .restoreFault, .sequenceExhausted, .rebaseFault, .frozen])

/-- R88, R135 to R138, R140: RESTORING. A header of an UNDO record above its channel's R_c is followed by the payload read, and a
payload whose check word matches by the write of its line. The write answered DONE counts its line, and an epoch when it is
not the one last restored of the channel. After it, after a line of the journal area (skipped and counted) and after any other
record, the walk goes on: to the record the back-link names, or, at slot 2 or with back-link 0, to the next segment, or to
REBASING with none left. A read or write answered FAILED, a record that fails its test and, above slot 2, a back-link that leads below it end RESTORING with
RESTORE_FAULT and the fault's segment, number and line (logs 16 to 18 and 26). -/
def Obligations.RestoringRestoresLine : Prop :=
  ∀ (p q : Part) (w : List Instr) (t : DTag) (r : DownReq) (k s slot : Nat) (n : Seq) (g : Geometry) (id : Word)
    (fails : FailureReason → Option (Nat × Seq × Option Addr) → Part → Part),
    getAt p.arbiter.issued t = some r → r.purpose = .recovery k →
    p.command.busy = .recover → p.power.frozen = false → g = p.classifier.geometry → id = g.identity →
    q = { p with arbiter := { p.arbiter with issued := setAt p.arbiter.issued t none } } →
    fails = (fun why x u => { u with
      restore := { u.restore with
        recovery := .failed, lastFailure := why, stage := .idle, left := [],
        report := { u.restore.report with
          outcome := .failed, reason := why, faultSegment := x.map (·.1), faultSeq := x.map (·.2.1),
          faultLine := x.bind (·.2.2), secondSegment := none } },
      command := { busy := .none, last := { command := .recover, result := .failed, reason := why.asReason,
                                            detail := .none, overlap := 0 } },
      events := { u.events with flags := u.events.flags ||| eventMask .recoveryFailed } }) →
    (p.restore.stage = .backHeader s slot n →
      exec (.recoveryRestoreReadAnswered t .failed) ⟨p, w⟩ = .next ⟨fails .restoreFault (some (s, n, none)) q, w⟩) ∧
    (∀ data h, p.restore.stage = .backHeader s slot n → h = headerOfBytes data →
      (headerShape h slot (slotsPerSegment g) = false ∨ h.seq ≠ n ∨ (h.kind ≠ some .undo ∧ checkMatches id h [] = false)) →
      exec (.recoveryRestoreReadAnswered t (.done data)) ⟨p, w⟩ =
        .next ⟨fails .restoreFault (some (s, n, if h.kind = some .undo then some h.line else none)) q, w⟩) ∧
    (∀ data h, p.restore.stage = .backHeader s slot n → h = headerOfBytes data →
      headerShape h slot (slotsPerSegment g) = true → h.seq = n → h.kind = some .undo →
      (getAt p.restore.report.channels h.channel).resolved.toNat < h.epoch.toNat →
      exec (.recoveryRestoreReadAnswered t (.done data)) ⟨p, w⟩ =
        .next ⟨{ q with
          restore := { p.restore with stage := .backPayload s slot n h (freshPieces (slotAddr g s (slot + 1)) 64) },
          arbiter := { q.arbiter with
            waiting := p.arbiter.waiting ++ readPieces .recovery (slotAddr g s (slot + 1)) 64 } }, w⟩) ∧
    (∀ a h old ps, p.restore.stage = .backPayload s slot n h old →
      ps = old.set k (match a with | .done data => .done data | .failed => .failed) →
      (Piece.waiting ∈ ps →
        exec (.recoveryRestoreReadAnswered t a) ⟨p, w⟩ =
          .next ⟨{ q with restore := { p.restore with stage := .backPayload s slot n h ps } }, w⟩) ∧
      (Piece.waiting ∉ ps → (Piece.failed ∈ ps ∨ checkMatches id h (payloadWords (gatheredData ps)) = false) →
        exec (.recoveryRestoreReadAnswered t a) ⟨p, w⟩ =
          .next ⟨fails .restoreFault (some (s, n, some h.line)) q, w⟩) ∧
      ((∀ y ∈ ps, ∃ d, y = .done d) → checkMatches id h (payloadWords (gatheredData ps)) = true →
        inWindow g h.line.toNat = false →
        exec (.recoveryRestoreReadAnswered t a) ⟨p, w⟩ =
          .next ⟨{ q with
            restore := { p.restore with stage := .backWrite s slot n h },
            arbiter := { q.arbiter with
              waiting := p.arbiter.waiting ++ [engineWrite (.recovery 0) h.line.toNat (gatheredData ps)] } }, w⟩)) ∧
    (∀ h, p.restore.stage = .backWrite s slot n h →
      exec (.recoveryRestoreWriteAnswered t .failed) ⟨p, w⟩ =
        .next ⟨fails .restoreFault (some (s, h.seq, some h.line)) q, w⟩) ∧
    (∀ (i : Instr) (u : Part) (h : HeaderSlot) (y : ChannelReport), y = getAt p.restore.report.channels h.channel →
      ((∃ data, i = .recoveryRestoreReadAnswered t (.done data) ∧ p.restore.stage = .backHeader s slot n ∧
          h = headerOfBytes data ∧ headerShape h slot (slotsPerSegment g) = true ∧ h.seq = n ∧
          (h.kind = some .undo → h.epoch.toNat ≤ y.resolved.toNat) ∧
          (h.kind ≠ some .undo → checkMatches id h [] = true) ∧ u = q) ∨
        (∃ data old ps, i = .recoveryRestoreReadAnswered t (.done data) ∧ p.restore.stage = .backPayload s slot n h old ∧
          ps = old.set k (.done data) ∧ (∀ x ∈ ps, ∃ d, x = .done d) ∧
          checkMatches id h (payloadWords (gatheredData ps)) = true ∧ inWindow g h.line.toNat = true ∧
          u = { q with restore := { p.restore with report := { p.restore.report with
            channels := setAt p.restore.report.channels h.channel { y with skipped := y.skipped + 1 } } } }) ∨
        (i = .recoveryRestoreWriteAnswered t .done ∧ p.restore.stage = .backWrite s slot n h ∧
          u = { q with restore := { p.restore with
            report := { p.restore.report with channels := setAt p.restore.report.channels h.channel { y with
              restored := y.restored + 1,
              epochsRestored := if getAt p.restore.previous h.channel = some h.epoch then y.epochsRestored
                else y.epochsRestored + 1 } },
            previous := setAt p.restore.previous h.channel (some h.epoch) } })) →
      (h.backLink ≠ 0 → 2 + h.backLink ≤ slot →
        exec i ⟨p, w⟩ = .next ⟨{ u with
          restore := { u.restore with stage := .backHeader s (slot - h.backLink) (n - 1) },
          arbiter := { u.arbiter with
            waiting := p.arbiter.waiting ++ [engineRead (.recovery 0) (slotAddr g s (slot - h.backLink)) 32] } }, w⟩) ∧
      (h.backLink ≠ 0 → slot ≠ 2 → slot < 2 + h.backLink →
        exec i ⟨p, w⟩ = .next ⟨fails .restoreFault (some (s, n - 1, none)) u, w⟩) ∧
      (∀ a rest m top, (h.backLink = 0 ∨ slot = 2) → p.restore.left = a :: rest →
        (p.restore.tables.segments.getD a SegmentScan.notRead).last = some (m, top) →
        exec i ⟨p, w⟩ = .next ⟨{ u with
          restore := { u.restore with stage := .backHeader a top m, left := rest },
          arbiter := { u.arbiter with
            waiting := p.arbiter.waiting ++ [engineRead (.recovery 0) (slotAddr g a top) 32] } }, w⟩) ∧
      (∀ first chs, (h.backLink = 0 ∨ slot = 2) → p.restore.left = [] → first = p.restore.tables.highestSeq + 1 →
        chs = u.restore.report.channels →
        (first ≤ 281474976710654 →
          exec i ⟨p, w⟩ = .next ⟨{ u with
            restore := { u.restore with
              recovery := .rebasing, stage := .activeHeader (lowestUsable g),
              report := { u.restore.report with newFirst := first, channels := chs.map ChannelReport.rebased } },
            arbiter := { u.arbiter with waiting := p.arbiter.waiting ++
              [engineWrite (.recovery 0) (segmentAddr g (lowestUsable g))
                (segmentHeaderBytes g (lowestUsable g) true first
                  (chs.map fun x => (ChannelReport.rebased x).resolved))] } }, w⟩) ∧
        (281474976710654 < first →
          exec i ⟨p, w⟩ = .next ⟨fails .sequenceExhausted none { u with
            restore := { u.restore with
              recovery := .rebasing, report := { u.restore.report with newFirst := first } } }, w⟩)))

/-- R130, R138, R140: FORMAT writes EMPTY headers into the usable segments above the lowest, one at a time in ascending order, and
then the ACTIVE header, with first sequence number 1, into the lowest. A header write answered FAILED ends FORMAT in
RECOVERY_FAILED with REBASE_FAULT and that header's segment. -/
def Obligations.FormatWritesHeadersInOrder : Prop :=
  ∀ (p : Part) (w : List Instr) (t : DTag) (r : DownReq) (k s : Nat),
    getAt p.arbiter.issued t = some r → r.purpose = .recovery k → p.restore.stage = .formatHeader s →
    p.command.busy = .format → p.power.frozen = false →
    (∀ j rest, (usableSegments p.classifier.geometry).tail.filter (fun x => decide (s < x)) = j :: rest →
      exec (.formatHeaderWriteAnswered t .done) ⟨p, w⟩ =
        .next ⟨{ p with
          restore := { p.restore with stage := .formatHeader j },
          arbiter := { p.arbiter with
            waiting := p.arbiter.waiting ++ [engineWrite (.recovery 0) (segmentAddr p.classifier.geometry j)
              (segmentHeaderBytes p.classifier.geometry j false 0 (Vector.replicate 4 0))],
            issued := setAt p.arbiter.issued t none } }, w⟩) ∧
    (∀ j, (usableSegments p.classifier.geometry).tail.filter (fun x => decide (s < x)) = [] →
      (usableSegments p.classifier.geometry).head? = some j →
      exec (.formatHeaderWriteAnswered t .done) ⟨p, w⟩ =
        .next ⟨{ p with
          restore := { p.restore with stage := .activeHeader j },
          arbiter := { p.arbiter with
            waiting := p.arbiter.waiting ++ [engineWrite (.recovery 0) (segmentAddr p.classifier.geometry j)
              (segmentHeaderBytes p.classifier.geometry j true 1 (Vector.replicate 4 0))],
            issued := setAt p.arbiter.issued t none } }, w⟩) ∧
    exec (.formatHeaderWriteAnswered t .failed) ⟨p, w⟩ =
      .next ⟨{ p with
        restore := { p.restore with
          recovery := .failed, lastFailure := .rebaseFault, stage := .idle, left := [],
          report := { p.restore.report with outcome := .failed, reason := .rebaseFault, faultSegment := some s,
                                            faultSeq := none, faultLine := none, secondSegment := none } },
        arbiter := { p.arbiter with issued := setAt p.arbiter.issued t none },
        command := { busy := .none, last := { command := .format, result := .failed, reason := .rebaseFault,
                                              detail := .none, overlap := 0 } },
        events := { p.events with flags := p.events.flags ||| eventMask .recoveryFailed } }, w⟩

/-- R21, R37, R91, R130, R138, R139: when the ACTIVE header of a rebase or of FORMAT is answered DONE, recovery is READY, the
writer runs from the header's first number (1 after FORMAT) with everything before it durable, and every channel has its
rebased R_c (0 after FORMAT) and the epoch after it: an enabled one is OPEN and empty, and one whose R_c is the last epoch is
EXHAUSTED. Answered FAILED, recovery fails with REBASE_FAULT and the segment (R140). -/
def Obligations.ReadyIsReached : Prop :=
  (∀ (p : Part) (w : List Instr) (t : DTag) (r : DownReq) (k s : Nat) (f : Seq) (kind : CommandName)
    (chs : Vector Channel 4),
    getAt p.arbiter.issued t = some r → r.purpose = .recovery k → p.restore.stage = .activeHeader s →
    p.power.frozen = false →
    ((p.command.busy = .format ∧ f = 1 ∧ kind = .format) ∨
      (p.command.busy = .recover ∧ f = p.restore.report.newFirst ∧ kind = .recover)) →
    (∀ c ch x, ch = chan p c → x = (getAt p.restore.report.channels c).resolved →
      getAt chs c =
        if x = 0xFFFFFFFF then { ch with resolved := x, epoch := x, exhausted := true }
        else if ch.enabled then
          { ch with state := .opened, epoch := x + 1, resolved := x, outstanding := 0, records := 0, torn := false,
                    overflow := false, tornRecord := none, journaledWrites := 0, trackerHits := 0,
                    untrackedSaves := 0, holdExpiries := 0 }
        else { ch with epoch := x + 1, resolved := x }) →
    exec (.rebaseHeaderWriteAnswered t .done) ⟨p, w⟩ =
      .next ⟨{ p with
        writer := { p.writer with state := .running, haltCause := .none,
                                  active := some (lowestUsable p.classifier.geometry),
                                  table := servedTable p.classifier.geometry f, next := f, frontier := f - 1 },
        channels := chs,
        restore := { p.restore with recovery := .ready, stage := .idle, left := [],
                                    report := { p.restore.report with outcome := .done } },
        arbiter := { p.arbiter with issued := setAt p.arbiter.issued t none },
        command := { busy := .none, last := doneResult kind },
        events := { p.events with flags := p.events.flags ||| eventMask .recoveryDone } }, w⟩ ∧
    exec (.rebaseHeaderWriteAnswered t .failed) ⟨p, w⟩ =
      .next ⟨{ p with
        restore := { p.restore with
          recovery := .failed, lastFailure := .rebaseFault, stage := .idle, left := [],
          report := { p.restore.report with outcome := .failed, reason := .rebaseFault, faultSegment := some s,
                                            faultSeq := none, faultLine := none, secondSegment := none } },
        arbiter := { p.arbiter with issued := setAt p.arbiter.issued t none },
        command := { busy := .none, last := { command := kind, result := .failed, reason := .rebaseFault,
                                              detail := .none, overlap := 0 } },
        events := { p.events with flags := p.events.flags ||| eventMask .recoveryFailed } }, w⟩) ∧
  (∀ (g : Geometry) (f : Seq) (i : Nat), lowestUsable g < g.count.toNat →
    (servedTable g f)[i]? = if i = lowestUsable g
      then some { state := .active, first := f, used := 2, lastLen := 0, mask := 0 } else (builtTable g)[i]?)

/-- R145, R152: an answer whose tag is not outstanding is discarded, and a request presented while the port takes none
changes nothing (log 3). By the model's choice (log 2) any other row whose event cannot happen changes nothing too: an
answer for a tag that holds no request, CLASSIFY_REQUEST with no head or a head that is classified already, ARBITER_TURN
with a tag in use, an expiry of what has no deadline, PAIR_LO_READ of no low half or of a register that the frame does not
sample next (log 5), DRAIN_END with no drain, and STALE_DOWNSTREAM_ANSWER of any tag. (The other rows of the link:
NoWriteOutsideWriteFrames, FrameBeginsAndEnds.) -/
def Obligations.RowWithoutItsEventChangesNothing : Prop :=
  ∀ (p : Part) (w : List Instr) (t : DTag),
    exec (.staleDownstreamAnswer t) ⟨p, w⟩ = .next ⟨p, w⟩ ∧
    (∀ r, 16 ≤ p.port.intake.length ∨ p.command.busy = .softReset → exec (.upstreamRequest r) ⟨p, w⟩ = .next ⟨p, w⟩) ∧
    (getAt p.arbiter.issued t = none →
      (∀ d, exec (.ptAnswerDone t d) ⟨p, w⟩ = .next ⟨p, w⟩) ∧ exec (.ptAnswerFailed t) ⟨p, w⟩ = .next ⟨p, w⟩ ∧
      (∀ d, exec (.copyReadDone t d) ⟨p, w⟩ = .next ⟨p, w⟩) ∧ exec (.copyReadFailed t) ⟨p, w⟩ = .next ⟨p, w⟩ ∧
      exec (.recordWriteDone t) ⟨p, w⟩ = .next ⟨p, w⟩ ∧ exec (.recordWriteFailed t) ⟨p, w⟩ = .next ⟨p, w⟩ ∧
      (∀ a, exec (.rollbackHeaderReadAnswered t a) ⟨p, w⟩ = .next ⟨p, w⟩) ∧
      (∀ a, exec (.rollbackPayloadReadAnswered t a) ⟨p, w⟩ = .next ⟨p, w⟩) ∧
      (∀ a, exec (.rollbackRestoreWriteAnswered t a) ⟨p, w⟩ = .next ⟨p, w⟩) ∧
      (∀ a, exec (.scanReadAnswered t a) ⟨p, w⟩ = .next ⟨p, w⟩) ∧
      (∀ a, exec (.recoveryRestoreReadAnswered t a) ⟨p, w⟩ = .next ⟨p, w⟩) ∧
      (∀ a, exec (.recoveryRestoreWriteAnswered t a) ⟨p, w⟩ = .next ⟨p, w⟩) ∧
      (∀ a, exec (.formatHeaderWriteAnswered t a) ⟨p, w⟩ = .next ⟨p, w⟩) ∧
      (∀ a, exec (.rebaseHeaderWriteAnswered t a) ⟨p, w⟩ = .next ⟨p, w⟩)) ∧
    ((p.port.intake = [] ∨ ∃ r k rest, p.port.intake = { req := r, cls := some k } :: rest) →
      exec .classifyRequest ⟨p, w⟩ = .next ⟨p, w⟩) ∧
    (getAt p.arbiter.issued t ≠ none → exec (.arbiterTurn t) ⟨p, w⟩ = .next ⟨p, w⟩) ∧
    (∀ tag, (∀ e, holdEntry p tag = some e → e.deadline = none) → exec (.holdExpiry tag) ⟨p, w⟩ = .next ⟨p, w⟩) ∧
    (∀ c, (∀ m, (chan p c).marker = some m → m.deadline = none) →
      exec (.commitDeadlineExpiry c) ⟨p, w⟩ = .next ⟨p, w⟩) ∧
    (∀ i, (i ∉ pairLoIndexes ∨ ∀ f, p.link.frame = .frame f → f.isWrite = true ∨ f.index + 1 ≠ i) →
      exec (.pairLoRead i) ⟨p, w⟩ = .next ⟨p, w⟩) ∧
    (p.command.busy ≠ .softReset → exec .drainEnd ⟨p, w⟩ = .next ⟨p, w⟩)

/-! ### Deadlines -/

/-- R57, R58: what an expiry does to a read, a STRICT write or a LENIENT write in WAIT_EPOCH: it is answered REFUSED and leaves,
its HELD images go with their tracker entries, HOLD_EXPIRED is raised, and its channel counts the expiry. So expires a waiting
one whose deadline is reached, and one that enters a waiting state past its deadline (WaitLineIsLeft, CopyReadIsAnswered). The
time is at least the deadline from then on (log 1), and the
two tests that its leaving makes due are the model's marks (log 9). -/
def Obligations.ExpiredEntryIsRefused : Prop :=
  (∀ (p : Part) (e : HoldEntry) (tag : Tag), tag = e.req.tag →
    (e.req.kind = .read ∨ e.cls ≠ .lenient ∨ e.state = .waitEpoch) →
    expire p e = { p with
      port := { p.port with tags := setAt p.port.tags tag false,
                            responses := p.port.responses ++ [{ tag := tag, code := .refused, data := [] }] },
      tracker := p.tracker.filter fun x => !(e.lines.any fun l => l.isHeld && l.line == x.line),
      hold := { p.hold with queue := p.hold.queue.filter (fun x => x.req.tag != tag), lineTest := true, headRetry := true },
      slots := p.slots.map fun s => s.map fun k => if k.owner == some tag then { k with owner := none } else k,
      channels := setAt p.channels e.channel
        { chan p e.channel with holdExpiries := countUp (chan p e.channel).holdExpiries },
      events := { p.events with flags := p.events.flags ||| eventMask .holdExpired } }) ∧
  (∀ (p : Part) (w : List Instr) (tag : Tag) (e : HoldEntry) (d : Time),
    holdEntry p tag = some e → e.deadline = some d → e.failed = false →
    (e.state = .waitEpoch ∨ e.state = .waitLine ∨ e.state = .waitCopy ∨ e.state = .waitSpace) →
    (e.req.kind = .read ∨ e.cls ≠ .lenient ∨ e.state = .waitEpoch) →
    exec (.holdExpiry tag) ⟨p, w⟩ =
      .next ⟨settle { p with
        port := { p.port with tags := setAt p.port.tags tag false,
                              responses := p.port.responses ++ [{ tag := tag, code := .refused, data := [] }] },
        tracker := p.tracker.filter fun x => !(e.lines.any fun l => l.isHeld && l.line == x.line),
        hold := { p.hold with queue := p.hold.queue.filter (fun x => x.req.tag != tag),
                              lineTest := true, headRetry := true },
        slots := p.slots.map fun s => s.map fun k => if k.owner == some tag then { k with owner := none } else k,
        channels := setAt p.channels e.channel
          { chan p e.channel with holdExpiries := countUp (chan p e.channel).holdExpiries },
        events := { p.events with flags := p.events.flags ||| eventMask .holdExpired },
        now := max p.now d }, w⟩)

/-- R57 to R59, R83, R98, R102: what an expiry does to a LENIENT write in WAIT_LINE, WAIT_COPY or WAIT_SPACE: it takes the torn path, with
the event and the count of any expiry. With the channel's torn flag set, or its TORN record placed, the entry is marked and goes
to RECORDING, and its HELD images and their tracker entries go. Otherwise a TORN record is asked for: placed, its number is kept
and the entry is marked; not placed, the entry is answered REFUSED and leaves; where the placement halts the writer, the halt has answered it. So expires a waiting entry whose deadline is
reached, and one that enters a waiting state past its deadline (WaitLineIsLeft, CopyReadIsAnswered). The time is at least the
deadline (log 1), a line whose image is discarded shows as PENDING (log 35), and the tests due when an entry leaves are marks
(log 9). -/
def Obligations.TornPathIsTaken : Prop :=
  (∀ (p : Part) (w : List Instr) (tag : Tag) (e : HoldEntry) (d : Time),
    holdEntry p tag = some e → e.deadline = some d → e.failed = false →
    (e.state = .waitEpoch ∨ e.state = .waitLine ∨ e.state = .waitCopy ∨ e.state = .waitSpace) →
    exec (.holdExpiry tag) ⟨p, w⟩ = .next ⟨settle (expire { p with now := max p.now d } e), w⟩) ∧
  (∀ (p p1 : Part) (tag : Tag) (e : HoldEntry) (mark : HoldEntry → HoldEntry) (gone : TrackerEntry → Bool) (req : PlaceReq),
    holdEntry p tag = some e → e.req.kind = .write → e.cls = .lenient →
    (e.state = .waitLine ∨ e.state = .waitCopy ∨ e.state = .waitSpace) →
    p1 = { p with
      channels := setAt p.channels e.channel
        { chan p e.channel with holdExpiries := countUp (chan p e.channel).holdExpiries },
      events := { p.events with flags := p.events.flags ||| eventMask .holdExpired } } →
    gone = (fun x => e.lines.any fun l => l.isHeld && l.line == x.line) →
    mark = (fun x =>
      { x with lines := x.lines.map (fun l => if l.isHeld then { l with sub := .pending } else l),
               state := .recording, torn := true }) →
    req = { kind := .torn, channel := e.channel, epoch := e.epoch.getD 0, torn := false, fault := false,
            overflowed := false, line := 0, region := 0xFFFF, image := [], undoCount := 0 } →
    (((chan p e.channel).torn = true ∨ (chan p e.channel).tornRecord ≠ none) →
      expire p e = { p1 with
        tracker := p.tracker.filter fun x => !gone x,
        hold := { p.hold with queue := p.hold.queue.map fun x => if x.req.tag = tag then mark x else x } }) ∧
    ((chan p e.channel).torn = false → (chan p e.channel).tornRecord = none →
      (∀ q n, place p1 req = (q, some n) →
        expire p e = { q with
          tracker := q.tracker.filter fun x => !gone x,
          channels := setAt q.channels e.channel { chan q e.channel with tornRecord := some n },
          hold := { q.hold with queue := q.hold.queue.map fun x => if x.req.tag = tag then mark x else x } }) ∧
      (place p1 req = (p1, none) →
        expire p e = { p1 with
          port := { p.port with tags := setAt p.port.tags tag false,
                                responses := p.port.responses ++ [{ tag := tag, code := .refused, data := [] }] },
          tracker := p.tracker.filter fun x => !gone x,
          hold := { p.hold with queue := p.hold.queue.filter (fun x => x.req.tag != tag),
                                lineTest := true, headRetry := true },
          slots := p.slots.map fun s => s.map fun k =>
            if k.owner == some tag then { k with owner := none } else k }) ∧
      (∀ q, place p1 req = (q, none) → q.writer.state ≠ p.writer.state → expire p e = q)))

/-- R33, R36, R37, R55: a commit whose deadline is reached before its record is placed is given up: its marker is answered REFUSED with reason
DEADLINE, the channel is OPEN at the same epoch, its waiting request is withdrawn, its WAIT_EPOCH entries are released. A release, here and at the end of an epoch, takes the channel's WAIT_EPOCH
entries in queue order. A write of a channel left IDLE is answered REFUSED. A released write is counted and takes the channel's
epoch, and so does a read (none where the channel is IDLE, log 41). One that shares a line with an older entry goes to WAIT_LINE, where
it expires as it enters past its deadline (R57); any other proceeds as one that leaves WAIT_LINE (WaitLineIsLeft). The
time is at least the deadline from then on (log 1), and the last marker result keeps the action it has (the model's choice,
log 47). -/
def Obligations.CommitIsGivenUp : Prop :=
  (∀ (p : Part) (w : List Instr) (c : Chan) (tag : Tag) (d : Time),
    (chan p c).marker = some { tag := tag, action := .commit, deadline := some d, record := none } →
    exec (.commitDeadlineExpiry c) ⟨p, w⟩ =
      .next ⟨settle (releaseEpoch { p with
        port := { p.port with tags := setAt p.port.tags tag false,
                              responses := p.port.responses ++ [{ tag := tag, code := .refused, data := [] }] },
        channels := setAt p.channels c { chan p c with
          state := .opened, marker := none,
          last := { (chan p c).last with result := .refused, reason := .deadline },
          holdExpiries := countUp (chan p c).holdExpiries },
        writer := { p.writer with waiting := p.writer.waiting.filter fun r => !(r.kind == .commit && r.channel == c) },
        events := { p.events with flags := p.events.flags ||| eventMask .holdExpired },
        now := max p.now d } c), w⟩) ∧
  (∀ (p : Part) (c : Chan), releaseEpoch p c =
    ((p.hold.queue.filter fun e => e.state == .waitEpoch && e.channel == c).map fun e => e.req.tag).foldl releaseOne p) ∧
  (∀ (p : Part) (t : Tag), holdEntry p t = none → releaseOne p t = p) ∧
  (∀ (p q u : Part) (t : Tag) (e x : HoldEntry) (ch : Channel), holdEntry p t = some e → ch = chan p e.channel →
    (e.req.kind = .write → ch.state = .idle →
      releaseOne p t = { p with
        port := { p.port with tags := setAt p.port.tags t false,
                              responses := p.port.responses ++ [{ tag := t, code := .refused, data := [] }] },
        tracker := p.tracker.filter fun y => !(e.lines.any fun l => l.isHeld && l.line == y.line),
        hold := { p.hold with queue := p.hold.queue.filter (fun y => y.req.tag != t), lineTest := true, headRetry := true },
        slots := p.slots.map fun s => s.map fun k => if k.owner == some t then { k with owner := none } else k }) ∧
    ((e.req.kind = .read ∨ ch.state ≠ .idle) →
      x = { e with epoch := if ch.state = .idle then none else some ch.epoch } →
      q = { p with
        hold := { p.hold with queue := p.hold.queue.map fun y =>
          if y.req.tag = t then { y with epoch := x.epoch } else y },
        channels := if e.req.kind = .write then
            setAt p.channels e.channel { ch with journaledWrites := countUp ch.journaledWrites }
          else p.channels } →
      ((∀ o ∈ olderThan p.hold.queue t, requestsShare o.req e.req = false) → releaseOne p t = proceed q x) ∧
      ((∃ o ∈ olderThan p.hold.queue t, requestsShare o.req e.req = true) →
        u = { q with hold := { q.hold with queue := q.hold.queue.map fun y =>
          if y.req.tag = t then { y with state := .waitLine } else y } } →
        ((∀ d, e.deadline = some d → p.now ≤ d) → releaseOne p t = u) ∧
        (∀ d, e.deadline = some d → d < p.now → releaseOne p t = expire u { x with state := .waitLine }))))

/-! ### The command slot -/

/-- R16, R106 to R108, R129, R130, R177: a refused command changes nothing but the last result, which shows the command and the
reason, and COMMAND_REFUSED. While a command is in progress every command but SOFT_RESET is refused with BUSY, and a code that
names no command is refused with UNKNOWN_COMMAND, busy or not. RECOVER and FORMAT are refused with FROZEN, then RECOVERY_STATE;
START with WRITER_STATE, NOT_READY (both at once: the first, the model's choice, log 51); STOP with WRITER_STATE, CHANNELS_BUSY,
RECORDS_IN_FLIGHT; RETURN_SEGMENT with NO_GEOMETRY, SEGMENT_RANGE, NOT_HELD (several at once: the first, log 51). A RECOVER,
FORMAT or START whose conditions hold is refused with GEOMETRY_INVALID, the detail and the overlapping entry when the geometry
check fails, and the check names the first condition that fails (BASE_ALIGN never does, log 33). -/
def Obligations.RefusedCommandIsRecorded : Prop :=
  (∀ (p : Part) (w : List Instr) (n : Fin 64) (refused : LastResult → Host.Outcome State Fault Refusal),
    p.link.writesAt 3 = true →
    refused = (fun last => .next ⟨{ p with
      link := p.link.afterGroup, command := { p.command with last := last },
      events := { p.events with flags := p.events.flags ||| eventMask .commandRefused } }, w⟩) →
    (∀ code : BitVec 3, (code = 0 ∨ code = 7) →
      exec (.unknownCommand code) ⟨p, w⟩ = refused (refusedResult .unknown .unknownCommand)) ∧
    (∀ c name, p.command.busy ≠ .none →
      ((c = .recover ∧ name = .recover) ∨ (c = .format ∧ name = .format) ∨ (c = .start ∧ name = .start) ∨
        (c = .stop ∧ name = .stop) ∨ (c = .returnSegment n ∧ name = .returnSegment)) →
      exec c ⟨p, w⟩ = refused (refusedResult name .busy)) ∧
    (p.command.busy = .none → p.power.frozen = true →
      exec .recover ⟨p, w⟩ = refused (refusedResult .recover .frozen) ∧
      exec .format ⟨p, w⟩ = refused (refusedResult .format .frozen)) ∧
    (p.command.busy = .none → p.power.frozen = false →
      (p.restore.recovery ≠ .unrecovered → exec .format ⟨p, w⟩ = refused (refusedResult .format .recoveryState)) ∧
      (p.restore.recovery ≠ .unrecovered → p.restore.recovery ≠ .failed →
        exec .recover ⟨p, w⟩ = refused (refusedResult .recover .recoveryState))) ∧
    (p.command.busy = .none →
      (p.writer.state ≠ .stopped → exec .start ⟨p, w⟩ = refused (refusedResult .start .writerState)) ∧
      (p.writer.state = .stopped → p.restore.recovery ≠ .ready →
        exec .start ⟨p, w⟩ = refused (refusedResult .start .notReady))) ∧
    (p.command.busy = .none →
      (p.writer.state ≠ .running → p.writer.state ≠ .suspended →
        exec .stop ⟨p, w⟩ = refused (refusedResult .stop .writerState)) ∧
      ((p.writer.state = .running ∨ p.writer.state = .suspended) →
        ((∃ c, (chan p c).state ≠ .idle ∧ ((chan p c).state ≠ .opened ∨ (chan p c).records ≠ 0 ∨ (chan p c).torn = true ∨
            (chan p c).tornRecord ≠ none ∨ (chan p c).outstanding ≠ 0)) →
          exec .stop ⟨p, w⟩ = refused (refusedResult .stop .channelsBusy)) ∧
        ((∀ c, (chan p c).state = .idle ∨ ((chan p c).state = .opened ∧ (chan p c).records = 0 ∧ (chan p c).torn = false ∧
            (chan p c).tornRecord = none ∧ (chan p c).outstanding = 0)) →
          p.hold.queue ≠ [] → exec .stop ⟨p, w⟩ = refused (refusedResult .stop .recordsInFlight)))) ∧
    (p.command.busy = .none →
      (p.classifier.inForce = false → exec (.returnSegment n) ⟨p, w⟩ = refused (refusedResult .returnSegment .noGeometry)) ∧
      (p.classifier.inForce = true → p.classifier.geometry.count.toNat ≤ n.val →
        exec (.returnSegment n) ⟨p, w⟩ = refused (refusedResult .returnSegment .segmentRange)) ∧
      (p.classifier.inForce = true → n.val < p.classifier.geometry.count.toNat →
        (∀ e, p.writer.table[n.val]? = some e → e.state ≠ .held) →
        exec (.returnSegment n) ⟨p, w⟩ = refused (refusedResult .returnSegment .notHeld))) ∧
    (∀ c name d o, p.command.busy = .none → geometryCheck p = some (d, o) →
      ((c = .recover ∧ name = .recover ∧ p.power.frozen = false ∧
          (p.restore.recovery = .unrecovered ∨ p.restore.recovery = .failed)) ∨
        (c = .format ∧ name = .format ∧ p.power.frozen = false ∧ p.restore.recovery = .unrecovered) ∨
        (c = .start ∧ name = .start ∧ p.writer.state = .stopped ∧ p.restore.recovery = .ready)) →
      exec c ⟨p, w⟩ = refused { command := name, result := .refused, reason := .geometryInvalid, detail := d, overlap := o })) ∧
  (∀ (p : Part) (g : Geometry), g = p.classifier.geometry →
    geometryCheck p =
      if 4 < g.sizeCode.toNat then some (.sizeCode, 0)
      else if g.count.toNat < 4 ∨ 64 < g.count.toNat then some (.segmentCount, 0)
      else if 2 ^ 40 < g.base.toNat * 65536 + g.count.toNat * (4096 * 2 ^ g.sizeCode.toNat) then some (.areaRange, 0)
      else if ((List.range g.count.toNat).filter fun i => !g.exclude.getLsbD i).length < 3 then some (.usableSegments, 0)
      else (([0, 1, 2, 3, 4, 5, 6, 7, 8, 9, 10, 11, 12, 13, 14, 15] : List (Fin 16)).find? fun i =>
        overlapsArea g (getAt p.classifier.regions i)).map fun i => (.regionOverlap, i)) ∧
  (∀ (g : Geometry) (e : RegionEntry) (first : Nat), 0 < g.count.toNat → first = g.base.toNat * 65536 →
    (overlapsArea g e = true ↔ e.enabled = true ∧ (e.cls = .strict ∨ e.cls = .lenient ∨ e.cls = .marker) ∧
      ∃ a, first ≤ a ∧ a < first + g.count.toNat * (4096 * 2 ^ g.sizeCode.toNat) ∧
        e.base.toNat ≤ a / 4096 ∧ a / 4096 ≤ e.limit.toNat)) ∧
  (∀ (c : CommandName) (why : CommandReason), refusedResult c why =
    { command := c, result := .refused, reason := why, detail := .none, overlap := 0 })

/-- R15, R71, R90, R129 to R133: RECOVER that passes its conditions puts the geometry in force, builds the segment table, clears
tables and report, becomes the busy command, and reads the lowest usable segment's header in SCANNING. FORMAT that passes
its conditions becomes the busy command in REBASING and writes the first EMPTY header. The table built has an EXCLUDED or FREE
entry for every segment; the usable segments are those not excluded. (Their refusals:
RefusedCommandIsRecorded.) The cleared report's failure reason NONE, resolved-through epochs 0 and torn found no are the model's
choice (log 55). -/
def Obligations.RecoverOrFormatIsTaken : Prop :=
  (∀ (p : Part) (w : List Instr), p.link.writesAt 3 = true → p.command.busy = .none → p.power.frozen = false →
    (p.restore.recovery = .unrecovered ∨ p.restore.recovery = .failed) → geometryCheck p = none →
    exec .recover ⟨p, w⟩ =
      .next ⟨{ p with
        classifier := { p.classifier with inForce := true },
        writer := { p.writer with table := builtTable p.classifier.geometry },
        restore := { p.restore with
          recovery := .scanning, stage := .scanHeader (lowestUsable p.classifier.geometry), left := [],
          previous := Vector.replicate 4 none,
          tables := { segments := List.replicate p.classifier.geometry.count.toNat SegmentScan.notRead,
                      channels := Vector.replicate 4 ChannelScan.cleared, validHeaders := 0, usedHeaders := 0,
                      highestSeq := 0 },
          report := { Report.cleared with kind := .recover } },
        arbiter := { p.arbiter with waiting := p.arbiter.waiting ++
          [engineRead (.recovery 0) (segmentAddr p.classifier.geometry (lowestUsable p.classifier.geometry)) 64] },
        link := p.link.afterGroup,
        command := { p.command with busy := .recover } }, w⟩) ∧
  (∀ (p : Part) (w : List Instr) (j : Nat) (rest : List Nat), p.link.writesAt 3 = true → p.command.busy = .none →
    p.power.frozen = false → p.restore.recovery = .unrecovered → geometryCheck p = none →
    (usableSegments p.classifier.geometry).tail = j :: rest →
    exec .format ⟨p, w⟩ =
      .next ⟨{ p with
        classifier := { p.classifier with inForce := true },
        writer := { p.writer with table := builtTable p.classifier.geometry },
        restore := { p.restore with
          recovery := .rebasing, stage := .formatHeader j, left := [], previous := Vector.replicate 4 none,
          tables := { segments := List.replicate p.classifier.geometry.count.toNat SegmentScan.notRead,
                      channels := Vector.replicate 4 ChannelScan.cleared, validHeaders := 0, usedHeaders := 0,
                      highestSeq := 0 },
          report := { Report.cleared with kind := .format } },
        arbiter := { p.arbiter with waiting := p.arbiter.waiting ++
          [engineWrite (.recovery 0) (segmentAddr p.classifier.geometry j)
            (segmentHeaderBytes p.classifier.geometry j false 0 (Vector.replicate 4 0))] },
        link := p.link.afterGroup,
        command := { p.command with busy := .format } }, w⟩) ∧
  (∀ g : Geometry,
    (builtTable g).length = g.count.toNat ∧
    (∀ i, i < g.count.toNat → (builtTable g)[i]? =
      some { state := if g.exclude.getLsbD i then .excluded else .free, first := 0, used := 0, lastLen := 0, mask := 0 }) ∧
    (usableSegments g).Pairwise (· < ·) ∧
    (∀ i, i ∈ usableSegments g ↔ i < g.count.toNat ∧ g.exclude.getLsbD i = false) ∧
    (∀ i rest, usableSegments g = i :: rest → lowestUsable g = i))

/-- R21, R107: START that passes its conditions makes the writer RUNNING with the rest of it kept, and opens the enabled
channels that can open. R22, R108: STOP with every channel quiet and no entry held makes the writer STOPPED and every
channel IDLE. (Their refusals: RefusedCommandIsRecorded.) -/
def Obligations.StartAndStopMoveService : Prop :=
  (∀ (p : Part) (w : List Instr), p.link.writesAt 3 = true → p.command.busy = .none → p.writer.state = .stopped →
    p.restore.recovery = .ready → geometryCheck p = none →
    exec .start ⟨p, w⟩ =
      .next ⟨{ p with
        classifier := { p.classifier with inForce := true },
        writer := { p.writer with state := .running },
        channels := p.channels.map fun ch =>
          if ch.enabled ∧ ch.state = .idle ∧ ch.exhausted = false then
            { ch with state := .opened, outstanding := 0, records := 0, torn := false, overflow := false,
                      tornRecord := none, journaledWrites := 0, trackerHits := 0, untrackedSaves := 0, holdExpiries := 0 }
          else ch,
        link := p.link.afterGroup,
        command := { p.command with last := doneResult .start } }, w⟩) ∧
  (∀ (p : Part) (w : List Instr), p.link.writesAt 3 = true → p.command.busy = .none →
    (p.writer.state = .running ∨ p.writer.state = .suspended) →
    (∀ c, (chan p c).state = .idle ∨ ((chan p c).state = .opened ∧ (chan p c).records = 0 ∧ (chan p c).torn = false ∧
      (chan p c).tornRecord = none ∧ (chan p c).outstanding = 0)) →
    p.hold.queue = [] →
    exec .stop ⟨p, w⟩ =
      .next ⟨{ p with
        writer := { p.writer with state := .stopped },
        channels := p.channels.map fun ch => { ch with state := .idle },
        link := p.link.afterGroup,
        command := { p.command with last := doneResult .stop } }, w⟩) ∧
  (∀ c : CommandName, doneResult c = { command := c, result := .done, reason := .none, detail := .none, overlap := 0 })

/-- R104, R106: RETURN_SEGMENT of a HELD segment makes it FREE, its first sequence and slots used kept, and what waits for
space is tested. (Its refusals: RefusedCommandIsRecorded.) -/
def Obligations.ReturnedSegmentIsFree : Prop :=
  ∀ (p : Part) (w : List Instr) (n : Fin 64) (e : SegEntry), p.link.writesAt 3 = true → p.command.busy = .none →
    p.classifier.inForce = true → n.val < p.classifier.geometry.count.toNat →
    p.writer.table[n.val]? = some e → e.state = .held →
    exec (.returnSegment n) ⟨p, w⟩ =
      .next ⟨{ settle { p with
        writer := { p.writer with table := p.writer.table.modify n.val fun x => { x with state := .free } },
        command := { p.command with last := doneResult .returnSegment } } with link := p.link.afterGroup }, w⟩

/-- R69, R110, R127, R160, R178, R179: SOFT_RESET becomes the busy command, the last result kept. Every request of the intake queue is
answered REFUSED and its tag is free; of the hold queue the entries in FORWARDING and the writes in RECORDING stay (log 22),
every other is answered REFUSED and leaves, its HELD images gone; the writer's waiting requests are withdrawn; the commits
whose record is not placed, the rollback being served without its record and the abort queue have their markers answered
REFUSED with SOFT_RESET. (Order of the answers: log 11; action shown: log 47; tests due: log 9.) A further one while its
drain runs has no effect. R142: in the drain the answer to recovery's request in flight changes nothing else. -/
def Obligations.SoftResetBeginsDrain : Prop :=
  (∀ (p : Part) (w : List Instr) (commits aborts : List Chan) (gone : List HoldEntry) (done : List Response)
    (chs : Vector Channel 4), p.link.writesAt 3 = true →
    (p.command.busy = .softReset →
      exec .softReset ⟨p, w⟩ = .next ⟨{ p with link := p.link.afterGroup }, w⟩) ∧
    (p.command.busy ≠ .softReset →
      commits = ([0, 1, 2, 3] : List Chan).filter (fun c =>
        (chan p c).marker.any fun m => m.action == .commit && m.record.isNone) →
      aborts = (p.restore.rollback.toList.filter fun x => x.abortRecord.isNone).map (·.channel) ++ p.restore.abortQueue →
      gone = p.hold.queue.filter (fun e => !(e.state == .forwarding || (e.isWrite && e.state == .recording))) →
      done = p.port.intake.map (fun x => ({ tag := x.req.tag, code := .refused, data := [] } : Response)) ++
        gone.map (fun e => { tag := e.req.tag, code := .refused, data := [] }) ++
        (commits ++ aborts).eraseDups.filterMap (fun c => (chan p c).marker.map fun m =>
          { tag := m.tag, code := .refused, data := [] }) →
      (∀ c, getAt chs c =
        if (c ∈ commits ∨ c ∈ aborts) ∧ (chan p c).marker ≠ none then
          { chan p c with marker := none, last := { (chan p c).last with result := .refused, reason := .softReset } }
        else chan p c) →
      ∃ u : Part, u = settle { p with
          port := { p.port with intake := [], tags := done.foldl (fun v x => setAt v x.tag false) p.port.tags,
                                responses := p.port.responses ++ done },
          tracker := p.tracker.filter fun x => !(gone.any fun e => e.lines.any fun l => l.isHeld && l.line == x.line),
          hold := { p.hold with
            queue := p.hold.queue.filter fun x => !(gone.any fun e => e.req.tag == x.req.tag),
            lineTest := p.hold.lineTest || !gone.isEmpty, headRetry := p.hold.headRetry || !gone.isEmpty },
          slots := p.slots.map fun s => s.map fun k =>
            if gone.any (fun e => k.owner == some e.req.tag) then { k with owner := none } else k,
          writer := { p.writer with waiting := [] },
          channels := chs,
          command := { p.command with busy := .softReset } } ∧
        exec .softReset ⟨p, w⟩ = .next ⟨{ u with link := p.link.afterGroup }, w⟩ ∧
        u.command = { p.command with busy := .softReset } ∧ (p.port.responses ++ done) <+: u.port.responses ∧
        u.classifier = p.classifier ∧ u.power = p.power ∧ u.now = p.now ∧ u.arbiter.issued = p.arbiter.issued ∧
        u.restore.tables = p.restore.tables ∧ u.restore.report = p.restore.report)) ∧
  (∀ (p q : Part) (w : List Instr) (t : DTag) (r : DownReq) (k s slot : Nat) (n : Seq) (h : HeaderSlot) (ps : List Piece)
    (a : ReadAnswer) (b : WriteAnswer),
    getAt p.arbiter.issued t = some r → r.purpose = .recovery k → p.command.busy = .softReset →
    q = { p with restore := { p.restore with stage := .idle },
                 arbiter := { p.arbiter with issued := setAt p.arbiter.issued t none } } →
    ((p.restore.stage = .scanHeader s ∨ p.restore.stage = .scanSlot s slot n ∨ p.restore.stage = .scanRecord s slot n ps) →
      exec (.scanReadAnswered t a) ⟨p, w⟩ = .next ⟨q, w⟩) ∧
    (p.restore.stage = .backHeader s slot n → exec (.recoveryRestoreReadAnswered t a) ⟨p, w⟩ = .next ⟨q, w⟩) ∧
    (p.restore.stage = .backPayload s slot n h ps → allAnswered (ps.set k (pieceOfAnswer a)) = true →
      exec (.recoveryRestoreReadAnswered t a) ⟨p, w⟩ = .next ⟨q, w⟩) ∧
    (p.restore.stage = .backWrite s slot n h →
      exec (.recoveryRestoreWriteAnswered t b) ⟨p, w⟩ = .next ⟨q, w⟩) ∧
    (p.restore.stage = .formatHeader s → exec (.formatHeaderWriteAnswered t b) ⟨p, w⟩ = .next ⟨q, w⟩) ∧
    (p.restore.stage = .activeHeader s → exec (.rebaseHeaderWriteAnswered t b) ⟨p, w⟩ = .next ⟨q, w⟩))

/-- R163, R181, R182: the drain ends once no tag is outstanding, nothing waits or is issued downstream and no placed record
waits for a header that may still be answered DONE; every block is then as after a soft reset. With PFAIL asserted at that
moment the part leaves the reset FROZEN, with PFAIL_FROZEN raised after the flags are cleared. That responses already sent
stay in the model's list and that the time goes on are the model's choices (logs 6, 1), and so are the last marker result and
its reason NONE (log 49), the last failure reason NONE (log 31) and the cleared report (log 55). -/
def Obligations.DrainEndResetsBlocks : Prop :=
  ∀ (p q : Part) (w : List Instr), p.command.busy = .softReset →
    (∀ t, getAt p.port.tags t = false) → p.arbiter.waiting = [] → (∀ t, getAt p.arbiter.issued t = none) →
    (∀ j ∈ p.writer.journal, j.presented = true ∨
      ∃ x ∈ p.writer.journal, x.isHeader = true ∧ x.seg = j.seg ∧ x.failed = true) →
    q = { Part.reset with
      port := { Part.reset.port with responses := p.port.responses },
      classifier := { p.classifier with inForce := false, areaWrites := 0 },
      hold := { HoldUnit.cleared with limit := p.hold.limit },
      writer := { Writer.cleared with retain := p.writer.retain },
      channels := p.channels.map fun ch => { Channel.cleared with enabled := ch.enabled, code := ch.code },
      arbiter := { Arbiter.cleared with mode := p.arbiter.mode },
      link := p.link,
      command := { busy := .none, last := doneResult .softReset },
      events := { flags := 0, enables := p.events.enables },
      now := p.now } →
    (p.power.pfail = false → exec .drainEnd ⟨p, w⟩ = .next ⟨q, w⟩) ∧
    (p.power.pfail = true →
      exec .drainEnd ⟨p, w⟩ =
        .next ⟨{ q with
          writer := { q.writer with state := .frozen },
          events := { q.events with flags := eventMask .pfailFrozen },
          power := { frozen := true, pfail := true } }, w⟩)

/-! ### Resets and PFAIL -/

/-- R3, R19, R69, R72, R90, R112, R128, R159, R163, R174, R176, R191: a power-on or pin reset with PFAIL negated leaves
every block at its reset state, whose values the last clause gives. By the model's choice responses already sent stay sent and
the time goes on (logs 1, 6), a link between frames is ready for the next frame at once (log 25), and where the spec names no
value the last marker result and its reason are NONE (log 49), the last failure reason is NONE (log 31), the report's reason, resolved
epochs and torn found are cleared (log 55) and the data output shows 0 (log 4). With PFAIL asserted the freeze is taken. -/
def Obligations.HardResetClears : Prop :=
  (∀ (p : Part) (w : List Instr) (c : Instr), (c = .powerOnReset ∨ c = .pinReset) →
    (p.power.pfail = false →
      exec c ⟨p, w⟩ =
        .next ⟨{ Part.reset with
          port := { Part.reset.port with responses := p.port.responses },
          link := { Part.reset.link with frame := if p.link.frame = .idle then .idle else .ignoring },
          now := p.now }, w⟩) ∧
    (p.power.pfail = true →
      ∃ q : Part, exec c ⟨p, w⟩ = .next ⟨q, w⟩ ∧ q.power = { frozen := true, pfail := true } ∧
        eventSet q .pfailFrozen = true ∧ q.writer.state = .frozen ∧ q.events.enables = 0 ∧
        q.classifier = Part.reset.classifier ∧ q.restore.recovery = .unrecovered ∧ q.command = Part.reset.command)) ∧
  Part.reset =
    { port := { tags := Vector.replicate 16 false, intake := [], protocol := { tag := 0, kind := .read, reason := .none },
                responses := [] },
      classifier := { regions := Vector.replicate 16 { enabled := false, base := 0, limit := 0, cls := .pass, channel := 0 },
                      regionIndex := 0, inForce := false, areaWrites := 0,
                      geometry := { base := 0, sizeCode := 0, count := 0, identity := 0, exclude := 0 } },
      tracker := [],
      hold := { queue := [], limit := 0, lineTest := false, headRetry := false },
      slots := Vector.replicate 4 none,
      writer := { state := .stopped, haltCause := .none, haltSegment := none, active := none, next := 0, frontier := 0,
                  waiting := [], table := [], journal := [], retain := false },
      channels := Vector.replicate 4
        { enabled := false, code := 0, state := .idle, exhausted := false, epoch := 0, resolved := 0, outstanding := 0,
          records := 0, torn := false, overflow := false, tornRecord := none, marker := none,
          last := { action := .none, result := .none, reason := .none }, journaledWrites := 0, trackerHits := 0,
          untrackedSaves := 0, holdExpiries := 0, committed := 0, aborted := 0,
          summary := { epoch := 0, outcome := .none, journaledWrites := 0, saves := 0, trackerHits := 0, untrackedSaves := 0,
                       holdExpiries := 0, torn := false, overflow := false, faulted := false } },
      restore :=
        { abortQueue := [], rollback := none, recovery := .unrecovered, lastFailure := .none, stage := .idle, left := [],
          status := { channel := none, restored := 0, skipped := 0, cursorSegment := none },
          previous := Vector.replicate 4 none,
          tables := { segments := [], validHeaders := 0, usedHeaders := 0, highestSeq := 0,
                      channels := Vector.replicate 4
                        { headerBound := 0, highestSaved := none, highestTorn := none, lastEnd := none } },
          report := { kind := .none, outcome := .none, reason := .none, faultSegment := none, faultSeq := none,
                      faultLine := none, secondSegment := none, newFirst := 0,
                      channels := Vector.replicate 4
                        { resolved := 0, openEpoch := none, tornFound := false, restored := 0, skipped := 0,
                          epochsRestored := 0 } } },
      arbiter := { waiting := [], issued := Vector.replicate 32 none, mode := .fair, lastTurn := .engine },
      link := { frame := .idle, sample := 0, segmentIndex := 0, statSelect := 0, reportSelect := 0 },
      command := { busy := .none,
                   last := { command := .none, result := .none, reason := .none, detail := .none, overlap := 0 } },
      events := { flags := 0, enables := 0 }, power := { frozen := false, pfail := false }, now := 0 }

/-- R66, R109, R126, R136, R143, R161, R162, R164, R167: the first assertion of PFAIL sets the FROZEN indication and PFAIL_FROZEN, and the
writer becomes FROZEN unless it is HALTED, its waiting requests withdrawn. The commits whose record is not placed, the
rollback being served without its record, and the abort queue have their markers answered REFUSED with FROZEN and stay as
they are. Write entries are answered REFUSED and leave, but for those in FORWARDING or RECORDING and those with a copy fault,
which wait for their reads; HELD images go with their tracker entries, the lines showing as PENDING (log 45), and reads stay.
(Order of the answers: log 11; action shown: log 47; tests due: log 9.) A further assertion changes only the level shown, and
so does the negation. The answer to the request that RECOVER or FORMAT has in flight, DONE or FAILED, then ends it in
RECOVERY_FAILED with FROZEN (log 15); a restore write answered DONE has restored its line, which counts (log 15). -/
def Obligations.PfailIsTaken : Prop :=
  (∀ (p : Part) (w : List Instr) (commits aborts : List Chan) (gone kept : List HoldEntry) (done : List Response)
    (chs : Vector Channel 4),
    (p.power.frozen = true →
      exec .pfailAssertion ⟨p, w⟩ = .next ⟨{ p with power := { frozen := true, pfail := true } }, w⟩) ∧
    (p.power.frozen = false →
      commits = ([0, 1, 2, 3] : List Chan).filter (fun c =>
        (chan p c).marker.any fun m => m.action == .commit && m.record.isNone) →
      aborts = (p.restore.rollback.toList.filter fun x => x.abortRecord.isNone).map (·.channel) ++ p.restore.abortQueue →
      gone = p.hold.queue.filter (fun e => e.isWrite && (e.state == .waitEpoch || e.state == .waitLine ||
        e.state == .waitCopy || e.state == .waitSpace || (e.state == .copying && !e.failed))) →
      kept = p.hold.queue.filter (fun e => e.isWrite && e.state == .copying && e.failed) →
      done = (commits ++ aborts).eraseDups.filterMap (fun c => (chan p c).marker.map fun m =>
          ({ tag := m.tag, code := .refused, data := [] } : Response)) ++
        gone.map (fun e => { tag := e.req.tag, code := .refused, data := [] }) →
      (∀ c, getAt chs c =
        if (c ∈ commits ∨ c ∈ aborts) ∧ (chan p c).marker ≠ none then
          { chan p c with marker := none, last := { (chan p c).last with result := .refused, reason := .frozen } }
        else chan p c) →
      ∃ u : Part, u = settle { p with
          port := { p.port with tags := done.foldl (fun v x => setAt v x.tag false) p.port.tags,
                                responses := p.port.responses ++ done },
          tracker := p.tracker.filter fun x =>
            !((gone ++ kept).any fun e => e.lines.any fun l => l.isHeld && l.line == x.line),
          hold := { p.hold with
            queue := (p.hold.queue.filter fun x => !(gone.any fun e => e.req.tag == x.req.tag)).map fun x =>
              if kept.any (fun e => e.req.tag == x.req.tag) then
                { x with lines := x.lines.map fun l => if l.isHeld then { l with sub := .pending } else l }
              else x,
            lineTest := p.hold.lineTest || !gone.isEmpty, headRetry := p.hold.headRetry || !gone.isEmpty },
          slots := p.slots.map fun s => s.map fun k =>
            if gone.any (fun e => k.owner == some e.req.tag) then { k with owner := none } else k,
          writer := { p.writer with state := if p.writer.state = .halted then .halted else .frozen, waiting := [] },
          channels := chs,
          events := { p.events with flags := p.events.flags ||| eventMask .pfailFrozen },
          power := { frozen := true, pfail := true } } ∧
        exec .pfailAssertion ⟨p, w⟩ = .next ⟨u, w⟩ ∧ u.power = { frozen := true, pfail := true } ∧
        eventSet u .pfailFrozen = true ∧
        u.writer.state = (if p.writer.state = .halted then .halted else .frozen) ∧
        u.classifier = p.classifier ∧ u.link = p.link ∧ u.command = p.command ∧ u.now = p.now ∧
        u.arbiter.issued = p.arbiter.issued ∧ p.port.responses <+: u.port.responses)) ∧
  (∀ (p : Part) (w : List Instr),
    exec .pfailNegation ⟨p, w⟩ = .next ⟨{ p with power := { p.power with pfail := false } }, w⟩) ∧
  (∀ (p q : Part) (w : List Instr) (t : DTag) (r : DownReq) (k s slot : Nat) (n : Seq) (h : HeaderSlot) (ps : List Piece)
    (a : ReadAnswer) (b : WriteAnswer) (name : CommandName),
    getAt p.arbiter.issued t = some r → r.purpose = .recovery k → p.power.frozen = true →
    ((p.command.busy = .recover ∧ name = .recover) ∨ (p.command.busy = .format ∧ name = .format)) →
    q = { p with
      restore := { p.restore with
        recovery := .failed, lastFailure := .frozen, stage := .idle, left := [],
        report := { p.restore.report with outcome := .failed, reason := .frozen, faultSegment := none,
                                          faultSeq := none, faultLine := none, secondSegment := none } },
      arbiter := { p.arbiter with issued := setAt p.arbiter.issued t none },
      command := { busy := .none, last := { command := name, result := .failed, reason := .frozen,
                                            detail := .none, overlap := 0 } },
      events := { p.events with flags := p.events.flags ||| eventMask .recoveryFailed } } →
    ((p.restore.stage = .scanHeader s ∨ p.restore.stage = .scanSlot s slot n ∨ p.restore.stage = .scanRecord s slot n ps) →
      exec (.scanReadAnswered t a) ⟨p, w⟩ = .next ⟨q, w⟩) ∧
    (p.restore.stage = .backHeader s slot n → exec (.recoveryRestoreReadAnswered t a) ⟨p, w⟩ = .next ⟨q, w⟩) ∧
    (p.restore.stage = .backPayload s slot n h ps → allAnswered (ps.set k (pieceOfAnswer a)) = true →
      exec (.recoveryRestoreReadAnswered t a) ⟨p, w⟩ = .next ⟨q, w⟩) ∧
    (p.restore.stage = .backWrite s slot n h →
      exec (.recoveryRestoreWriteAnswered t .failed) ⟨p, w⟩ = .next ⟨q, w⟩) ∧
    (∀ y : ChannelReport, p.restore.stage = .backWrite s slot n h → y = getAt p.restore.report.channels h.channel →
      exec (.recoveryRestoreWriteAnswered t .done) ⟨p, w⟩ =
        .next ⟨{ q with restore := { q.restore with
          report := { q.restore.report with channels := setAt p.restore.report.channels h.channel { y with
            restored := y.restored + 1,
            epochsRestored := if getAt p.restore.previous h.channel = some h.epoch then y.epochsRestored
              else y.epochsRestored + 1 } },
          previous := setAt p.restore.previous h.channel (some h.epoch) } }, w⟩) ∧
    (p.restore.stage = .formatHeader s → exec (.formatHeaderWriteAnswered t b) ⟨p, w⟩ = .next ⟨q, w⟩) ∧
    (p.restore.stage = .activeHeader s → exec (.rebaseHeaderWriteAnswered t b) ⟨p, w⟩ = .next ⟨q, w⟩))

/-! ### The register window -/

/-- R2, R14: a write to the region window goes to the selected entry while configuration writes are open; while they are
closed, or with a class code that names no class, it is refused with CONFIG_REFUSED. A write to a journal geometry
register is taken while they are open and the geometry is not in force, a write to a channel's enable while they are open;
otherwise the register keeps its value and CONFIG_REFUSED is raised. (That bit 1 of an enable is yes is the model's choice, log
48.) -/
def Obligations.ConfigurationWriteIsJudged : Prop :=
  (∀ (p : Part) (w : List Instr) (v : Word) (e : RegionEntry),
    e = getAt p.classifier.regions p.classifier.regionIndex →
    (p.writer.state = .stopped ∧ p.command.busy = .none →
      (p.link.writesAt 0x11 = true →
        exec (.regionEntryWrite .base v) ⟨p, w⟩ =
          .next ⟨{ p with
            classifier := { p.classifier with
              regions := setAt p.classifier.regions p.classifier.regionIndex { e with base := v.extractLsb' 0 28 } },
            link := p.link.afterGroup }, w⟩) ∧
      (p.link.writesAt 0x12 = true →
        exec (.regionEntryWrite .limit v) ⟨p, w⟩ =
          .next ⟨{ p with
            classifier := { p.classifier with
              regions := setAt p.classifier.regions p.classifier.regionIndex { e with limit := v.extractLsb' 0 28 } },
            link := p.link.afterGroup }, w⟩) ∧
      (∀ k, p.link.writesAt 0x13 = true → classOfCode ((v.extractLsb' 1 3).toNat) = some k →
        exec (.regionEntryWrite .control v) ⟨p, w⟩ =
          .next ⟨{ p with
            classifier := { p.classifier with
              regions := setAt p.classifier.regions p.classifier.regionIndex
                { e with enabled := v.getLsbD 0, cls := k, channel := (v.extractLsb' 4 2).toFin } },
            link := p.link.afterGroup }, w⟩) ∧
      (p.link.writesAt 0x13 = true → classOfCode ((v.extractLsb' 1 3).toNat) = none →
        exec (.regionEntryWrite .control v) ⟨p, w⟩ =
          .next ⟨{ p with link := p.link.afterGroup,
                          events := { p.events with flags := p.events.flags ||| eventMask .configRefused } }, w⟩)) ∧
    (∀ r, p.writer.state ≠ .stopped ∨ p.command.busy ≠ .none → p.link.writesAt (regionRegIndex r) = true →
      exec (.regionEntryWrite r v) ⟨p, w⟩ =
        .next ⟨{ p with link := p.link.afterGroup,
                        events := { p.events with flags := p.events.flags ||| eventMask .configRefused } }, w⟩)) ∧
  (∀ (p : Part) (w : List Instr) (v : Word) (g : Geometry), g = p.classifier.geometry →
    (p.writer.state = .stopped ∧ p.command.busy = .none ∧ p.classifier.inForce = false →
      (p.link.writesAt 0x08 = true →
        exec (.configGroupWrite .journalBase v) ⟨p, w⟩ =
          .next ⟨{ p with classifier := { p.classifier with geometry := { g with base := v.extractLsb' 0 24 } },
                          link := p.link.afterGroup }, w⟩) ∧
      (p.link.writesAt 0x09 = true →
        exec (.configGroupWrite .journalGeometry v) ⟨p, w⟩ =
          .next ⟨{ p with classifier := { p.classifier with
                            geometry := { g with sizeCode := v.extractLsb' 0 3, count := v.extractLsb' 3 7 } },
                          link := p.link.afterGroup }, w⟩) ∧
      (p.link.writesAt 0x0A = true →
        exec (.configGroupWrite .journalId v) ⟨p, w⟩ =
          .next ⟨{ p with classifier := { p.classifier with geometry := { g with identity := v } },
                          link := p.link.afterGroup }, w⟩) ∧
      (p.link.writesAt 0x0B = true →
        exec (.configGroupWrite .excludeLo v) ⟨p, w⟩ =
          .next ⟨{ p with classifier := { p.classifier with
                            geometry := { g with exclude := g.exclude.extractLsb' 32 32 ++ v } },
                          link := p.link.afterGroup }, w⟩) ∧
      (p.link.writesAt 0x0C = true →
        exec (.configGroupWrite .excludeHi v) ⟨p, w⟩ =
          .next ⟨{ p with classifier := { p.classifier with
                            geometry := { g with exclude := v ++ g.exclude.extractLsb' 0 32 } },
                          link := p.link.afterGroup }, w⟩)) ∧
    (p.writer.state = .stopped ∧ p.command.busy = .none → ∀ c,
      p.link.writesAt (configRegIndex (.channelControl c)) = true →
      exec (.configGroupWrite (.channelControl c) v) ⟨p, w⟩ =
        .next ⟨{ p with channels := setAt p.channels c { chan p c with enabled := v.getLsbD 0 },
                        link := p.link.afterGroup }, w⟩) ∧
    (∀ r, p.link.writesAt (configRegIndex r) = true →
      (p.writer.state ≠ .stopped ∨ p.command.busy ≠ .none ∨
        (p.classifier.inForce = true ∧ ∀ c, r ≠ .channelControl c)) →
      exec (.configGroupWrite r v) ⟨p, w⟩ =
        .next ⟨{ p with link := p.link.afterGroup,
                        events := { p.events with flags := p.events.flags ||| eventMask .configRefused } }, w⟩)) ∧
  (∀ n, classOfCode n = ([.pass, .guarded, .strict, .lenient, .marker] : List RegionClass)[n]?)

/-- R20: a write to a channel's marker code is taken while the channel is IDLE; otherwise the code keeps its value and
CONFIG_REFUSED is raised. R14, R20: a write to a channel's enable is taken while configuration writes are open, refused
otherwise; that bit 1 is yes is the model's choice (log 48). -/
def Obligations.MarkerCodeWriteIsJudged : Prop :=
  ∀ (p : Part) (w : List Instr) (c : Chan) (v : Word),
    (p.link.writesAt (markerCodeIndex c) = true →
      ((chan p c).state = .idle →
        exec (.markerCodeWrite c v) ⟨p, w⟩ =
          .next ⟨{ p with channels := setAt p.channels c { chan p c with code := v }, link := p.link.afterGroup }, w⟩) ∧
      ((chan p c).state ≠ .idle →
        exec (.markerCodeWrite c v) ⟨p, w⟩ =
          .next ⟨{ p with link := p.link.afterGroup,
                          events := { p.events with flags := p.events.flags ||| eventMask .configRefused } }, w⟩)) ∧
    (p.link.writesAt (configRegIndex (.channelControl c)) = true →
      (p.writer.state = .stopped ∧ p.command.busy = .none →
        exec (.configGroupWrite (.channelControl c) v) ⟨p, w⟩ =
          .next ⟨{ p with channels := setAt p.channels c { chan p c with enabled := v.getLsbD 0 },
                          link := p.link.afterGroup }, w⟩) ∧
      (p.writer.state ≠ .stopped ∨ p.command.busy ≠ .none →
        exec (.configGroupWrite (.channelControl c) v) ⟨p, w⟩ =
          .next ⟨{ p with link := p.link.afterGroup,
                          events := { p.events with flags := p.events.flags ||| eventMask .configRefused } }, w⟩))

/-- R188: EVENT_CLEAR clears the flags whose bits are 1, EVENT_SET sets them, and an enabled flag so forced drives IRQ
low. Both act in every state of the part, bits 18 to 31 are ignored, and nothing else changes. Both read as 0. -/
def Obligations.EventRegistersAct : Prop :=
  ∀ (p : Part) (w : List Instr) (v : Word),
    (p.link.writesAt 0x72 = true → ∃ f : BitVec 18,
      (∀ i, f.getLsbD i = (p.events.flags.getLsbD i && !v.getLsbD i)) ∧
      exec (.eventClear v) ⟨p, w⟩ =
        .next ⟨{ p with events := { p.events with flags := f }, link := p.link.afterGroup }, w⟩) ∧
    (p.link.writesAt 0x73 = true → ∃ f : BitVec 18, (∀ i, i < 18 → f.getLsbD i = (p.events.flags.getLsbD i || v.getLsbD i)) ∧
      exec (.eventSet v) ⟨p, w⟩ =
        .next ⟨{ p with events := { p.events with flags := f }, link := p.link.afterGroup }, w⟩ ∧
      ∀ q : Part, q.events = { p.events with flags := f } →
        (∃ i, i < 18 ∧ v.getLsbD i = true ∧ p.events.enables.getLsbD i = true) → irqLow q = true) ∧
    readRegister p 0x72 = 0 ∧ readRegister p 0x73 = 0

/-- R186, R189, R190: a write to EVENT_ENABLE replaces every enable, from bits 0 to 17 of the value, in every state of the part, and
changes nothing else; a read shows the enables (that bit 1 is set is the model's choice, log 48). The events stand at the bits
of R186's table. NORMAL_SUMMARY is set exactly while a flag of bits 0 to 3 is set and
enabled, ABNORMAL_SUMMARY while one of bits 4 to 17 is. IRQ is low while either is set. -/
def Obligations.IrqFollowsSummaries : Prop :=
  (∀ (p : Part) (w : List Instr) (v : Word),
    (p.link.writesAt 0x71 = true → ∃ f : BitVec 18, (∀ i, i < 18 → f.getLsbD i = v.getLsbD i) ∧
      exec (.eventEnable v) ⟨p, w⟩ =
        .next ⟨{ p with events := { p.events with enables := f }, link := p.link.afterGroup }, w⟩) ∧
    (∀ i, (readRegister p 0x71).getLsbD i = p.events.enables.getLsbD i) ∧
    (normalSummary p = true ↔ ∃ i, i < 4 ∧ p.events.flags.getLsbD i = true ∧ p.events.enables.getLsbD i = true) ∧
    (abnormalSummary p = true ↔
      ∃ i, 4 ≤ i ∧ i < 18 ∧ p.events.flags.getLsbD i = true ∧ p.events.enables.getLsbD i = true) ∧
    (irqLow p = true ↔ normalSummary p = true ∨ abnormalSummary p = true)) ∧
  (∀ (i : Nat) (e : Event),
    ([.commitDone, .abortDone, .segmentHeld, .recoveryDone, .writerSuspended, .writerHalted, .holdExpired, .epochTorn,
      .copyFault, .dataFault, .rollbackFault, .recoveryFailed, .trackerOverflow, .protocolError, .configRefused,
      .commandRefused, .markerIgnored, .pfailFrozen] : List Event)[i]? = some e → eventMask e = 1#18 <<< i)

/-- R171, R172, R175, R177: in a write frame every register group, whichever row carries it, is a write of its value to the
frame's index, and the index advances by one (that the rows carry a register of their own, and that a command's value has 0
in its unused bits, is the model's, log 4). A write to an index reaches the register there: CONFIG (that bit 1 of retain is
yes: the model's choice, log 48), HOLD_LIMIT and the selects take their fields, an index that another row names does what that
row does, a code of COMMAND is the command that R177's table names, and a read-only or unmapped index is ignored. -/
def Obligations.RegisterWriteReachesRegister : Prop :=
  (∀ l : Link, (∀ i, l.writesAt i = true ↔ ∃ f, l.frame = .frame f ∧ f.isWrite = true ∧ f.index = i) ∧
    ((∀ f, l.frame = .frame f → f.isWrite = false) → l.afterGroup = l) ∧
    ∀ f, l.frame = .frame f → f.isWrite = true → l.afterGroup = { l with frame := .frame { f with index := f.index + 1 } }) ∧
  ([RegionReg.base, .limit, .control].map regionRegIndex = [0x11, 0x12, 0x13]) ∧
  ([ConfigReg.journalBase, .journalGeometry, .journalId, .excludeLo, .excludeHi].map configRegIndex =
    [0x08, 0x09, 0x0A, 0x0B, 0x0C]) ∧
  (([0, 1, 2, 3] : List Chan).map fun c => (configRegIndex (.channelControl c), markerCodeIndex c)) =
    [(0x28, 0x29), (0x2D, 0x2E), (0x32, 0x33), (0x37, 0x38)] ∧
  (∀ (p : Part) (w : List Instr) (v : Word) (f : Frame) (write : Word → Host.Outcome State Fault Refusal),
    p.link.frame = .frame f → f.isWrite = true → write = (fun u => exec (.registerWrite f.index u) ⟨p, w⟩) →
    (∀ i, exec (.registerWrite i v) ⟨p, w⟩ = write v) ∧
    (∀ r, exec (.regionEntryWrite r v) ⟨p, w⟩ = write v) ∧ (∀ r, exec (.configGroupWrite r v) ⟨p, w⟩ = write v) ∧
    (∀ c, exec (.markerCodeWrite c v) ⟨p, w⟩ = write v) ∧ exec (.eventClear v) ⟨p, w⟩ = write v ∧
    exec (.eventSet v) ⟨p, w⟩ = write v ∧ exec (.eventEnable v) ⟨p, w⟩ = write v ∧
    exec .recover ⟨p, w⟩ = write 1 ∧ exec .format ⟨p, w⟩ = write 2 ∧ exec .start ⟨p, w⟩ = write 3 ∧
    exec .stop ⟨p, w⟩ = write 4 ∧ (∀ n, exec (.returnSegment n) ⟨p, w⟩ = write (BitVec.ofNat 32 (5 + 8 * n.val))) ∧
    exec .softReset ⟨p, w⟩ = write 6 ∧ (∀ code, exec (.unknownCommand code) ⟨p, w⟩ = write (code.zeroExtend 32))) ∧
  ∀ (p : Part) (w : List Instr) (v : Word),
    (p.link.writesAt 0x01 = true → exec (.registerWrite 0x01 v) ⟨p, w⟩ =
      .next ⟨{ p with arbiter := { p.arbiter with mode := if v.getLsbD 0 then .engineFirst else .fair },
                      writer := { p.writer with retain := v.getLsbD 1 }, link := p.link.afterGroup }, w⟩) ∧
    (p.link.writesAt 0x02 = true → exec (.registerWrite 0x02 v) ⟨p, w⟩ =
      .next ⟨{ p with hold := { p.hold with limit := v.extractLsb' 0 16 }, link := p.link.afterGroup }, w⟩) ∧
    (p.link.writesAt 0x10 = true → exec (.registerWrite 0x10 v) ⟨p, w⟩ =
      .next ⟨{ p with classifier := { p.classifier with regionIndex := (v.extractLsb' 0 4).toFin },
                      link := p.link.afterGroup }, w⟩) ∧
    (p.link.writesAt 0x20 = true → exec (.registerWrite 0x20 v) ⟨p, w⟩ =
      .next ⟨{ p with link := { p.link.afterGroup with segmentIndex := (v.extractLsb' 0 6).toFin } }, w⟩) ∧
    (p.link.writesAt 0x40 = true → exec (.registerWrite 0x40 v) ⟨p, w⟩ =
      .next ⟨{ p with link := { p.link.afterGroup with statSelect := (v.extractLsb' 0 2).toFin } }, w⟩) ∧
    (p.link.writesAt 0x51 = true → exec (.registerWrite 0x51 v) ⟨p, w⟩ =
      .next ⟨{ p with link := { p.link.afterGroup with reportSelect := (v.extractLsb' 0 2).toFin } }, w⟩) ∧
    (∀ r, exec (.registerWrite (regionRegIndex r) v) ⟨p, w⟩ = exec (.regionEntryWrite r v) ⟨p, w⟩) ∧
    (∀ r, exec (.registerWrite (configRegIndex r) v) ⟨p, w⟩ = exec (.configGroupWrite r v) ⟨p, w⟩) ∧
    (∀ c, exec (.registerWrite (markerCodeIndex c) v) ⟨p, w⟩ = exec (.markerCodeWrite c v) ⟨p, w⟩) ∧
    exec (.registerWrite 0x71 v) ⟨p, w⟩ = exec (.eventEnable v) ⟨p, w⟩ ∧
    exec (.registerWrite 0x72 v) ⟨p, w⟩ = exec (.eventClear v) ⟨p, w⟩ ∧
    exec (.registerWrite 0x73 v) ⟨p, w⟩ = exec (.eventSet v) ⟨p, w⟩ ∧
    (p.link.writesAt 0x03 = true →
      (v.extractLsb' 0 3 = 1 → exec (.registerWrite 0x03 v) ⟨p, w⟩ = exec .recover ⟨p, w⟩) ∧
      (v.extractLsb' 0 3 = 2 → exec (.registerWrite 0x03 v) ⟨p, w⟩ = exec .format ⟨p, w⟩) ∧
      (v.extractLsb' 0 3 = 3 → exec (.registerWrite 0x03 v) ⟨p, w⟩ = exec .start ⟨p, w⟩) ∧
      (v.extractLsb' 0 3 = 4 → exec (.registerWrite 0x03 v) ⟨p, w⟩ = exec .stop ⟨p, w⟩) ∧
      (v.extractLsb' 0 3 = 5 →
        exec (.registerWrite 0x03 v) ⟨p, w⟩ = exec (.returnSegment (v.extractLsb' 3 6).toFin) ⟨p, w⟩) ∧
      (v.extractLsb' 0 3 = 6 → exec (.registerWrite 0x03 v) ⟨p, w⟩ = exec .softReset ⟨p, w⟩) ∧
      (∀ code, (code = 0 ∨ code = 7) → v.extractLsb' 0 3 = code →
        exec (.registerWrite 0x03 v) ⟨p, w⟩ = exec (.unknownCommand code) ⟨p, w⟩)) ∧
    (∀ i, i ∉ ([0x01, 0x02, 0x03, 0x08, 0x09, 0x0A, 0x0B, 0x0C, 0x10, 0x11, 0x12, 0x13, 0x20, 0x28, 0x29, 0x2D, 0x2E, 0x32,
        0x33, 0x37, 0x38, 0x40, 0x51, 0x71, 0x72, 0x73] : List (BitVec 7)) → p.link.writesAt i = true →
      exec (.registerWrite i v) ⟨p, w⟩ = .next ⟨{ p with link := p.link.afterGroup }, w⟩)

/-- R171, R173, R174: with no frame open, chip-select high, and on a link that ignores the clock, no group is carried, and a
group that completes in a read frame writes nothing: the next register is sampled, as the captured upper part where the
register before it was its _LO. That the rows of register groups stand for groups of a read frame too is the model's choice
(log 4). -/
def Obligations.NoWriteOutsideWriteFrames : Prop :=
  ∀ (p q : Part) (w : List Instr) (v : Word),
    (((p.link.frame = .idle ∨ p.link.frame = .ignoring) ∧ q = p) ∨
      (∃ f, p.link.frame = .frame f ∧ f.isWrite = false ∧
        q = { p with link := { p.link with
          frame := .frame { isWrite := false, index := f.index + 1,
                            capture := if f.index + 1 ∈ pairLoIndexes then some (readRegister p (f.index + 2)) else none },
          sample := f.capture.getD (readRegister p (f.index + 1)) } })) →
    exec .recover ⟨p, w⟩ = .next ⟨q, w⟩ ∧ exec .format ⟨p, w⟩ = .next ⟨q, w⟩ ∧ exec .start ⟨p, w⟩ = .next ⟨q, w⟩ ∧
    exec .stop ⟨p, w⟩ = .next ⟨q, w⟩ ∧ (∀ n, exec (.returnSegment n) ⟨p, w⟩ = .next ⟨q, w⟩) ∧
    exec .softReset ⟨p, w⟩ = .next ⟨q, w⟩ ∧ (∀ code, exec (.unknownCommand code) ⟨p, w⟩ = .next ⟨q, w⟩) ∧
    (∀ r, exec (.regionEntryWrite r v) ⟨p, w⟩ = .next ⟨q, w⟩) ∧
    (∀ r, exec (.configGroupWrite r v) ⟨p, w⟩ = .next ⟨q, w⟩) ∧
    (∀ c, exec (.markerCodeWrite c v) ⟨p, w⟩ = .next ⟨q, w⟩) ∧ exec (.eventClear v) ⟨p, w⟩ = .next ⟨q, w⟩ ∧
    exec (.eventSet v) ⟨p, w⟩ = .next ⟨q, w⟩ ∧ exec (.eventEnable v) ⟨p, w⟩ = .next ⟨q, w⟩ ∧
    (∀ i, exec (.registerWrite i v) ⟨p, w⟩ = .next ⟨q, w⟩)

/-- R171 to R174: the first byte of a frame is its command byte, which begins the frame at the index of its low seven bits, a
write when bit 7 is 1 and a read, with the register sampled, when it is 0; chip-select high ends the frame and its capture.
A link that ignores the clock takes no command byte. That COMMAND_BYTE in an
open frame, where R171 has no command byte, changes nothing (log 32) and that the data output shows 0 between frames (log 4)
are the model's choices. -/
def Obligations.FrameBeginsAndEnds : Prop :=
  ∀ (p : Part) (w : List Instr) (b : Byte) (trailing : List Byte) (i : BitVec 7), i = b.extractLsb' 0 7 →
    (p.link.frame = .idle → b.getLsbD 7 = true →
      exec (.commandByte b) ⟨p, w⟩ =
        .next ⟨{ p with link := { p.link with frame := .frame { isWrite := true, index := i, capture := none },
                                              sample := 0 } }, w⟩) ∧
    (p.link.frame = .idle → b.getLsbD 7 = false →
      exec (.commandByte b) ⟨p, w⟩ =
        .next ⟨{ p with link := { p.link with
          frame := .frame { isWrite := false, index := i,
                            capture := if i ∈ pairLoIndexes then some (readRegister p (i + 1)) else none },
          sample := readRegister p i } }, w⟩) ∧
    (p.link.frame ≠ .idle → exec (.commandByte b) ⟨p, w⟩ = .next ⟨p, w⟩) ∧
    exec (.frameEnd trailing) ⟨p, w⟩ = .next ⟨{ p with link := { p.link with frame := .idle, sample := 0 } }, w⟩

/-- R173: a _LO register is sampled with the command byte as the first register of a read frame, or by PAIR_LO_READ as the
group before it completes, and its sample captures the upper part of the same value. The matching _HI register sampled next
in the frame returns the captured part, whatever has changed between; a _HI register that begins a frame, the only other way
to sample one, returns the upper part as it stands. (Any register row completes the group between them: the model's choice, log 4. PAIR_LO_READ elsewhere:
RowWithoutItsEventChangesNothing.) -/
def Obligations.PairReadsOneValue : Prop :=
  pairLoIndexes = [0x19, 0x1B, 0x22, 0x54, 0x56, 0x59, 0x5B] ∧
  ∀ (p later : Part) (w : List Instr) (i j : BitVec 7) (v : Word) (f : Frame) (q : Part), i ∈ pairLoIndexes →
    f = { isWrite := false, index := i, capture := some (readRegister p (i + 1)) } →
    q = { p with link := { p.link with frame := .frame f, sample := readRegister p i } } →
    (∀ b : Byte, p.link.frame = .idle → b.getLsbD 7 = false → b.extractLsb' 0 7 = i →
      exec (.commandByte b) ⟨p, w⟩ = .next ⟨q, w⟩) ∧
    (∀ g, p.link.frame = .frame g → g.isWrite = false → g.index + 1 = i →
      exec (.pairLoRead i) ⟨p, w⟩ = .next ⟨q, w⟩) ∧
    (later.link.frame = .frame f → ∃ u : Part, exec (.registerWrite j v) ⟨later, w⟩ = .next ⟨u, w⟩ ∧
      u.link.sample = readRegister p (i + 1)) ∧
    (∀ b : Byte, later.link.frame = .idle → b.getLsbD 7 = false → b.extractLsb' 0 7 = i + 1 →
      ∃ u : Part, exec (.commandByte b) ⟨later, w⟩ = .next ⟨u, w⟩ ∧ u.link.sample = readRegister later (i + 1))

/-- R2, R6, R14, R18, R46, R51, R71, R72, R89, R92, R105, R149, R156, R173, R175, R176, R183, R184, R187: what ID, CONFIG,
HOLD_LIMIT, the geometry, region window and select registers, COMMAND_STATUS, PROTOCOL_STATUS,
JOURNAL_AREA_WRITES, OCCUPANCY, WRITER_STATUS, the two sequence numbers, the segment window, the five of every channel and
EVENT_STATUS show, each field at its place and each enumerated one by its position in the rule's list. Yes, set, present and
asserted show as 1 (log 48). A segment that is not present shows as 0, and so does COMMAND and every unmapped index. -/
def Obligations.StatusRegistersShowState : Prop :=
  ∀ (p : Part) (v : Word) (yes : Bool → BitVec 1), yes = (fun b => if b then 1 else 0) →
    readRegister p 0x00 = 0x0E420420 ∧
    (v = readRegister p 0x01 →
      ([.fair, .engineFirst] : List ArbiterMode)[(v.extractLsb' 0 1).toNat]? = some p.arbiter.mode ∧
      v.extractLsb' 1 1 = yes p.writer.retain ∧ v.extractLsb' 2 30 = 0) ∧
    (readRegister p 0x02 = p.hold.limit.zeroExtend 32 ∧ readRegister p 0x03 = 0 ∧
      readRegister p 0x08 = p.classifier.geometry.base.zeroExtend 32 ∧
      readRegister p 0x0A = p.classifier.geometry.identity ∧
      readRegister p 0x0B = p.classifier.geometry.exclude.extractLsb' 0 32 ∧
      readRegister p 0x0C = p.classifier.geometry.exclude.extractLsb' 32 32 ∧
      readRegister p 0x10 = BitVec.ofNat 32 p.classifier.regionIndex.val ∧
      readRegister p 0x11 = (getAt p.classifier.regions p.classifier.regionIndex).base.zeroExtend 32 ∧
      readRegister p 0x12 = (getAt p.classifier.regions p.classifier.regionIndex).limit.zeroExtend 32 ∧
      readRegister p 0x20 = BitVec.ofNat 32 p.link.segmentIndex.val ∧
      readRegister p 0x40 = BitVec.ofNat 32 p.link.statSelect.val ∧
      readRegister p 0x51 = BitVec.ofNat 32 p.link.reportSelect.val) ∧
    (v = readRegister p 0x09 →
      v.extractLsb' 0 3 = p.classifier.geometry.sizeCode ∧ v.extractLsb' 3 7 = p.classifier.geometry.count ∧
      v.extractLsb' 10 22 = 0) ∧
    (∀ e, e = getAt p.classifier.regions p.classifier.regionIndex → v = readRegister p 0x13 →
      v.extractLsb' 0 1 = yes e.enabled ∧
      ([.pass, .guarded, .strict, .lenient, .marker] : List RegionClass)[(v.extractLsb' 1 3).toNat]? = some e.cls ∧
      (v.extractLsb' 4 2).toNat = e.channel.val ∧ v.extractLsb' 6 26 = 0) ∧
    (∀ i ∈ ([0x0D, 0x0E, 0x0F, 0x14, 0x15, 0x16, 0x17, 0x1D, 0x1E, 0x1F, 0x24, 0x25, 0x26, 0x27, 0x3C, 0x3D, 0x3E, 0x3F, 0x4F,
        0x68, 0x69, 0x6A, 0x6B, 0x6C, 0x6D, 0x6E, 0x6F, 0x74, 0x75, 0x76, 0x77, 0x78, 0x79, 0x7A, 0x7B, 0x7C, 0x7D, 0x7E,
        0x7F] : List (BitVec 7)), readRegister p i = 0) ∧
    (v = readRegister p 0x04 →
      v.extractLsb' 0 1 = yes (p.command.busy != .none) ∧
      ([.none, .recover, .format, .softReset] : List BusyCommand)[(v.extractLsb' 1 2).toNat]? = some p.command.busy ∧
      ([.none, .recover, .format, .start, .stop, .returnSegment, .softReset, .unknown] :
        List CommandName)[(v.extractLsb' 3 3).toNat]? = some p.command.last.command ∧
      ([.none, .done, .refused, .failed] : List CommandResult)[(v.extractLsb' 6 2).toNat]? = some p.command.last.result ∧
      ([.none, .unknownCommand, .busy, .geometryInvalid, .frozen, .recoveryState, .writerState, .notReady, .channelsBusy,
        .recordsInFlight, .noGeometry, .segmentRange, .notHeld, .readFault, .noJournal, .journalInconsistent,
        .restoreFault, .sequenceExhausted, .rebaseFault] :
        List CommandReason)[(v.extractLsb' 8 5).toNat]? = some p.command.last.reason ∧
      ([.none, .baseAlign, .sizeCode, .segmentCount, .areaRange, .usableSegments, .regionOverlap] :
        List GeometryDetail)[(v.extractLsb' 13 3).toNat]? = some p.command.last.detail ∧
      (v.extractLsb' 16 4).toNat = p.command.last.overlap.val ∧ v.extractLsb' 20 12 = 0) ∧
    (v = readRegister p 0x05 →
      (v.extractLsb' 0 4).toNat = p.port.protocol.tag.val ∧
      ([.read, .write] : List Kind)[(v.extractLsb' 4 1).toNat]? = some p.port.protocol.kind ∧
      ([.none, .tagInUse, .badLength, .blockCrossing] : List ProtocolReason)[(v.extractLsb' 5 2).toNat]? =
        some p.port.protocol.reason ∧ v.extractLsb' 7 25 = 0) ∧
    readRegister p 0x06 = p.classifier.areaWrites ∧
    (v = readRegister p 0x07 →
      (v.extractLsb' 0 4).toNat = p.hold.queue.length % 16 ∧ (v.extractLsb' 4 11).toNat = p.tracker.length % 2048 ∧
      v.extractLsb' 15 17 = 0) ∧
    (v = readRegister p 0x70 →
      v.extractLsb' 0 18 = p.events.flags ∧ v.extractLsb' 18 12 = 0 ∧ v.extractLsb' 30 1 = yes (normalSummary p) ∧
      v.extractLsb' 31 1 = yes (abnormalSummary p)) ∧
    (v = readRegister p 0x18 →
      ([.stopped, .running, .suspended, .halted, .frozen] : List WriterState)[(v.extractLsb' 0 3).toNat]? =
        some p.writer.state ∧
      ([.none, .recordWriteFault, .sequenceExhausted] : List HaltCause)[(v.extractLsb' 3 2).toNat]? =
        some p.writer.haltCause ∧
      v.extractLsb' 5 1 = yes p.writer.haltSegment.isSome ∧
      (v.extractLsb' 6 6).toNat = p.writer.haltSegment.getD 0 % 64 ∧
      v.extractLsb' 12 1 = yes p.writer.active.isSome ∧ (v.extractLsb' 13 6).toNat = p.writer.active.getD 0 % 64 ∧
      (v.extractLsb' 19 7).toNat = (p.writer.table.filter fun e => e.state == .free).length % 128 ∧
      v.extractLsb' 26 1 = yes p.power.frozen ∧ v.extractLsb' 27 1 = yes p.power.pfail ∧ v.extractLsb' 28 4 = 0) ∧
    (readRegister p 0x19 = BitVec.ofNat 32 p.writer.frontier ∧
      readRegister p 0x1A = BitVec.ofNat 32 (p.writer.frontier / 2 ^ 32) ∧
      readRegister p 0x1B = BitVec.ofNat 32 p.writer.next ∧
      readRegister p 0x1C = BitVec.ofNat 32 (p.writer.next / 2 ^ 32)) ∧
    (v = readRegister p 0x21 →
      (∀ e, p.writer.table[p.link.segmentIndex.val]? = some e →
        v.extractLsb' 0 1 = 1 ∧
        ([.free, .active, .closed, .held, .excluded] : List SegState)[(v.extractLsb' 1 3).toNat]? = some e.state ∧
        (v.extractLsb' 4 12).toNat = e.used % 4096 ∧ (v.extractLsb' 16 8).toNat = e.lastLen % 256 ∧
        v.extractLsb' 24 4 = e.mask ∧ v.extractLsb' 28 4 = 0 ∧
        readRegister p 0x22 = BitVec.ofNat 32 e.first ∧ readRegister p 0x23 = BitVec.ofNat 32 (e.first / 2 ^ 32)) ∧
      (p.writer.table[p.link.segmentIndex.val]? = none →
        v = 0 ∧ readRegister p 0x22 = 0 ∧ readRegister p 0x23 = 0)) ∧
    (∀ c : Chan, v = readRegister p (0x2A + 5 * BitVec.ofNat 7 c.val) →
      ((∀ s, (chan p c).state ≠ .rollingBack s) →
        ([.idle, .opened, .committing] : List ChannelState)[(v.extractLsb' 0 2).toNat]? = some (chan p c).state ∧
        v.extractLsb' 2 2 = 0) ∧
      (∀ s, (chan p c).state = .rollingBack s → v.extractLsb' 0 2 = 3 ∧
        ([.queued, .draining, .restoring, .recording] : List Substate)[(v.extractLsb' 2 2).toNat]? = some s) ∧
      v.extractLsb' 4 1 = yes (chan p c).exhausted ∧ v.extractLsb' 5 1 = yes (chan p c).torn ∧
      v.extractLsb' 6 1 = yes (chan p c).overflow ∧ (v.extractLsb' 7 5).toNat = (chan p c).outstanding % 32 ∧
      ([.none, .commit, .abort] : List MarkerAction)[(v.extractLsb' 12 2).toNat]? = some (chan p c).last.action ∧
      ([.none, .pending, .done, .refused, .failed] : List MarkerResult)[(v.extractLsb' 14 3).toNat]? =
        some (chan p c).last.result ∧
      ([.none, .unknownAction, .channelState, .epochMismatch, .writerHalted, .frozen, .deadline, .softReset, .torn, .fault] :
        List MarkerReason)[(v.extractLsb' 17 4).toNat]? = some (chan p c).last.reason ∧ v.extractLsb' 21 11 = 0 ∧
      readRegister p (0x28 + 5 * BitVec.ofNat 7 c.val) = (yes (chan p c).enabled).zeroExtend 32 ∧
      readRegister p (0x29 + 5 * BitVec.ofNat 7 c.val) = (chan p c).code ∧
      readRegister p (0x2B + 5 * BitVec.ofNat 7 c.val) = (chan p c).epoch ∧
      readRegister p (0x2C + 5 * BitVec.ofNat 7 c.val) = (chan p c).resolved)

/-- R39 to R42, R112, R128, R131, R132, R173, R175, R185: what the statistics window, the report window and the rollback status show,
for the channels that their selects name. What is absent shows as 0 (log 46), yes and present as 1 (log 48), and the register
0x5E shows the low 31 bits of the open epoch beside its present bit (log 19). The current segment is that of the header, record
or line that recovery is reading or writing (log 37). Bits that name no field read 0. -/
def Obligations.WindowsShowState : Prop :=
  ∀ (p : Part) (ch : Channel) (rp : Report) (x : ChannelReport) (l : Option EndRecord) (yes : Bool → BitVec 1),
    ch = chan p p.link.statSelect → rp = p.restore.report → x = getAt rp.channels p.link.reportSelect →
    l = (getAt p.restore.tables.channels p.link.reportSelect).lastEnd → yes = (fun b => if b then 1 else 0) →
    ([0x41, 0x42, 0x43, 0x44, 0x45, 0x46, 0x48, 0x49, 0x4A, 0x4B, 0x4C, 0x4D, 0x4E] : List (BitVec 7)).map (readRegister p) =
      [ch.journaledWrites, ch.records, ch.trackerHits, ch.untrackedSaves, ch.holdExpiries, ch.summary.epoch,
        ch.summary.journaledWrites, ch.summary.saves, ch.summary.trackerHits, ch.summary.untrackedSaves,
        ch.summary.holdExpiries, ch.committed, ch.aborted] ∧
    (∀ v, v = readRegister p 0x47 →
      ([.none, .committed, .aborted] : List EpochOutcome)[(v.extractLsb' 0 2).toNat]? = some ch.summary.outcome ∧
      v.extractLsb' 2 1 = yes ch.summary.torn ∧ v.extractLsb' 3 1 = yes ch.summary.overflow ∧
      v.extractLsb' 4 1 = yes ch.summary.faulted ∧ v.extractLsb' 5 27 = 0) ∧
    (∀ v, v = readRegister p 0x50 →
      ([.unrecovered, .scanning, .restoring, .rebasing, .ready, .failed] : List RecoveryState)[(v.extractLsb' 0 3).toNat]? =
        some p.restore.recovery ∧
      ([.none, .readFault, .noJournal, .journalInconsistent, .restoreFault, .sequenceExhausted, .rebaseFault, .frozen] :
        List FailureReason)[(v.extractLsb' 3 3).toNat]? = some p.restore.lastFailure ∧
      v.extractLsb' 6 1 = yes (recoverySegment p).isSome ∧ (v.extractLsb' 7 6).toNat = (recoverySegment p).getD 0 % 64 ∧
      v.extractLsb' 13 19 = 0) ∧
    (recoverySegment p = match p.restore.stage with
      | .idle => none
      | .scanHeader a | .scanSlot a _ _ | .scanRecord a _ _ _ => some a
      | .backHeader a _ _ | .backPayload a _ _ _ _ | .backWrite a _ _ _ => some a
      | .formatHeader a | .activeHeader a => some a) ∧
    (∀ v, v = readRegister p 0x52 →
      ([.none, .recover, .format] : List ReportKind)[(v.extractLsb' 0 2).toNat]? = some rp.kind ∧
      ([.none, .done, .failed] : List ReportOutcome)[(v.extractLsb' 2 2).toNat]? = some rp.outcome ∧
      ([.none, .readFault, .noJournal, .journalInconsistent, .restoreFault, .sequenceExhausted, .rebaseFault, .frozen] :
        List FailureReason)[(v.extractLsb' 4 3).toNat]? = some rp.reason ∧ v.extractLsb' 7 25 = 0) ∧
    (∀ v, v = readRegister p 0x53 →
      v.extractLsb' 0 1 = yes rp.faultSegment.isSome ∧ (v.extractLsb' 1 6).toNat = rp.faultSegment.getD 0 % 64 ∧
      v.extractLsb' 7 1 = yes rp.secondSegment.isSome ∧ (v.extractLsb' 8 6).toNat = rp.secondSegment.getD 0 % 64 ∧
      v.extractLsb' 14 18 = 0) ∧
    ([0x54, 0x55, 0x56, 0x57, 0x59, 0x5A, 0x5B, 0x5C] : List (BitVec 7)).map (readRegister p) =
      [BitVec.ofNat 32 (rp.faultSeq.getD 0), BitVec.ofNat 32 (rp.faultSeq.getD 0 / 2 ^ 32),
        BitVec.ofNat 32 ((rp.faultLine.map (·.toNat)).getD 0), BitVec.ofNat 32 ((rp.faultLine.map (·.toNat)).getD 0 / 2 ^ 32),
        BitVec.ofNat 32 p.restore.tables.highestSeq, BitVec.ofNat 32 (p.restore.tables.highestSeq / 2 ^ 32),
        BitVec.ofNat 32 rp.newFirst, BitVec.ofNat 32 (rp.newFirst / 2 ^ 32)] ∧
    (∀ v, v = readRegister p 0x58 → (v.extractLsb' 0 7).toNat = p.restore.tables.validHeaders % 128 ∧
      (v.extractLsb' 7 7).toNat = p.restore.tables.usedHeaders % 128 ∧ v.extractLsb' 14 18 = 0) ∧
    ([0x5D, 0x60, 0x61, 0x63, 0x64] : List (BitVec 7)).map (readRegister p) =
      [x.resolved, BitVec.ofNat 32 x.restored, BitVec.ofNat 32 x.skipped, (l.map (·.epoch)).getD 0,
        (l.map (·.undoCount)).getD 0] ∧
    (∀ v, v = readRegister p 0x5E → v.extractLsb' 0 1 = yes x.openEpoch.isSome ∧
      (v.extractLsb' 1 31).toNat = (x.openEpoch.getD 0).toNat % 2 ^ 31) ∧
    (∀ v, v = readRegister p 0x5F → v.extractLsb' 0 1 = yes x.tornFound ∧
      (v.extractLsb' 1 31).toNat = x.epochsRestored % 2 ^ 31) ∧
    (∀ v, v = readRegister p 0x62 → (l = none → v = 0) ∧
      (∀ e, l = some e → v.extractLsb' 0 5 =
        yes e.overflowed ++ yes e.fault ++ yes e.torn ++ yes e.isAbort ++ 1#1 ∧ v.extractLsb' 5 27 = 0)) ∧
    (∀ v, v = readRegister p 0x65 →
      v.extractLsb' 0 1 = yes p.restore.status.channel.isSome ∧
      (v.extractLsb' 1 2).toNat = (p.restore.status.channel.map (·.val)).getD 0 ∧
      v.extractLsb' 3 1 = yes p.restore.status.cursorSegment.isSome ∧
      (v.extractLsb' 4 6).toNat = p.restore.status.cursorSegment.getD 0 % 64 ∧ v.extractLsb' 10 22 = 0) ∧
    readRegister p 0x66 = BitVec.ofNat 32 p.restore.status.restored ∧
    readRegister p 0x67 = BitVec.ofNat 32 p.restore.status.skipped

/-! ### The journal in memory -/

/-- R25, R73, R74, R79, R80, R86: the header slot of a placed record reads back from its bytes as it was written: its kind, channel,
epoch, flags, length, back-link, sequence number, region index, line and UNDO count are those of the record, its unnamed bits are
0, and its check word is right. A word lies with its least significant byte at the lowest address. The test of R86 holds exactly when the kind code is 1 to 5, the length field is that of the kind, the record fits the
segment, the number is the expected one, and the check word is the complement of the sum of words 0 to 6, of an UNDO record's
16 payload words, and of the journal identity. -/
def Obligations.RecordReadsBack : Prop :=
  (∀ (identity : Word) (r : PlaceReq) (n : Seq) (len back slot slots : Nat) (h : HeaderSlot),
    n < 2 ^ 48 → back < 256 → len = lengthFieldOf r.kind (slots - slot) → slot + recordSlots r.kind (slots - slot) ≤ slots →
    h = headerOfBytes (placedHeader identity r n len back).bytes →
    h = placedHeader identity r n len back ∧ h.kind = some r.kind ∧ h.channel = r.channel ∧ h.epoch = r.epoch ∧
      h.tornFlag = r.torn ∧ h.faultFlag = r.fault ∧ h.overflowedFlag = r.overflowed ∧ h.lengthField = len ∧
      h.backLink = back ∧ h.seq = n ∧ (r.kind = .undo → h.line = r.line) ∧
      h.w3.extractLsb' 16 16 = r.region ∧ h.w0.extractLsb' 10 2 = 0 ∧ h.w0.getLsbD 15 = false ∧
      h.w5.extractLsb' 8 24 = 0 ∧ h.w6 = 0 ∧ (r.kind ≠ .undo → h.w5 = 0) ∧
      ((r.kind = .torn ∨ r.kind = .pad) → h.w4 = 0) ∧
      ((r.kind = .commit ∨ r.kind = .abort) → h.w4 = r.undoCount) ∧
      recordValid identity h r.image slot slots n = true) ∧
  (∀ (h : HeaderSlot) (k : RecordKind), h.kind = some k ↔
    (h.w0.extractLsb' 0 8).toNat = (match k with | .undo => 1 | .commit => 2 | .abort => 3 | .torn => 4 | .pad => 5)) ∧
  (∀ h : HeaderSlot,
    h.channel.val = (h.w0.extractLsb' 8 2).toNat ∧ h.tornFlag = h.w0.getLsbD 12 ∧ h.faultFlag = h.w0.getLsbD 13 ∧
    h.overflowedFlag = h.w0.getLsbD 14 ∧ h.lengthField = (h.w0.extractLsb' 16 8).toNat ∧
    h.backLink = (h.w0.extractLsb' 24 8).toNat ∧ h.epoch = h.w1 ∧
    h.seq = h.w2.toNat + 2 ^ 32 * (h.w3.extractLsb' 0 16).toNat ∧ h.line = h.w5.extractLsb' 0 8 ++ h.w4) ∧
  (∀ (h : HeaderSlot) (slot slots : Nat), headerShape h slot slots = true ↔
    ∃ k, h.kind = some k ∧
      (h.w0.extractLsb' 16 8).toNat = (match k with
        | .undo => 3
        | .commit | .abort | .torn => 1
        | .pad => if slots - slot ≤ 255 then slots - slot else 0) ∧
      (match k with
        | .undo => slot + 3 ≤ slots
        | .commit | .abort | .torn => slot + 1 ≤ slots
        | .pad => slot ≤ slots)) ∧
  (∀ (identity : Word) (h : HeaderSlot) (payload : List Word), checkMatches identity h payload = true ↔
    h.w7 = ~~~ (h.w0 + h.w1 + h.w2 + h.w3 + h.w4 + h.w5 + h.w6 + payload.foldl (· + ·) 0 + identity)) ∧
  (∀ (identity : Word) (h : HeaderSlot) (image : List Byte) (slot slots : Nat) (n : Seq),
    recordValid identity h image slot slots n = true ↔
      headerShape h slot slots = true ∧ h.w2.toNat + 2 ^ 32 * (h.w3.extractLsb' 0 16).toNat = n ∧
        checkMatches identity h (if h.kind = some .undo then (List.range 16).map (wordAt image) else []) = true) ∧
  (∀ (bs : List Byte) (k : Nat), (wordAt bs k).toNat =
    (bs.getD (4 * k) 0).toNat + 2 ^ 8 * (bs.getD (4 * k + 1) 0).toNat + 2 ^ 16 * (bs.getD (4 * k + 2) 0).toNat +
      2 ^ 24 * (bs.getD (4 * k + 3) 0).toNat) ∧
  (∀ h : HeaderSlot, h.bytes.length = 32 ∧
    (List.range 8).map (wordAt h.bytes) = [h.w0, h.w1, h.w2, h.w3, h.w4, h.w5, h.w6, h.w7]) ∧
  (∀ image : List Byte, payloadWords image = (List.range 16).map (wordAt image))

/-- R70, R73 to R77: a segment header reads back from its bytes: it is valid for its own segment and identity, a used header
when it was written ACTIVE, and carries its first sequence number and the channels' R_c; every word of it is R74's, with unnamed bits 0. A header read from a segment is
valid exactly when word 0 is the magic, word 1 the identity in force, the index field the segment's, and word 15 the complement
of the sum of words 0 to 14; it is a used header exactly when ACTIVE is 1 and EMPTY is 0. Segments and slots stand where R70 puts them. -/
def Obligations.SegmentHeaderReadsBack : Prop :=
  (∀ (g : Geometry) (seg : Nat) (active : Bool) (first : Seq) (resolved : Vector Epoch 4) (bs : List Byte),
    seg < 64 → first < 2 ^ 48 → bs = segmentHeaderBytes g seg active first resolved →
    bs.length = 64 ∧ segmentHeaderValid g seg bs = true ∧ segmentHeaderUsed bs = active ∧
      segmentHeaderFirst bs = first ∧ (∀ c, segmentHeaderResolved bs c = getAt resolved c) ∧
      ∃ check, (List.range 16).map (wordAt bs) =
        [0x4A455348, g.identity,
          BitVec.ofNat 32 (seg + 2 ^ 8 * g.sizeCode.toNat + if active then 2 ^ 16 else 2 ^ 17),
          BitVec.ofNat 32 first, BitVec.ofNat 32 (first / 2 ^ 32), getAt resolved 0, getAt resolved 1, getAt resolved 2,
          getAt resolved 3, 0, 0, 0, 0, 0, 0, check]) ∧
  (∀ (g : Geometry) (i : Nat) (bs : List Byte),
    (segmentHeaderValid g i bs = true ↔
      wordAt bs 0 = 0x4A455348 ∧ wordAt bs 1 = g.identity ∧ ((wordAt bs 2).extractLsb' 0 6).toNat = i ∧
        wordAt bs 15 = ~~~ (((List.range 15).map (wordAt bs)).foldl (· + ·) 0)) ∧
    (segmentHeaderUsed bs = true ↔ (wordAt bs 2).getLsbD 16 = true ∧ (wordAt bs 2).getLsbD 17 = false)) ∧
  (∀ (bs : List Byte) (c : Chan),
    segmentHeaderFirst bs = (wordAt bs 3).toNat + 2 ^ 32 * ((wordAt bs 4).extractLsb' 0 16).toNat ∧
    segmentHeaderResolved bs c = wordAt bs (5 + c.val)) ∧
  (∀ (g : Geometry) (i j : Nat), slotsPerSegment g = 128 * 2 ^ g.sizeCode.toNat ∧
    segmentAddr g i = g.base.toNat * 65536 + i * (4096 * 2 ^ g.sizeCode.toNat) ∧
    slotAddr g i j = segmentAddr g i + 32 * j)

/-! ### The invariant -/

/-- The invariant: no queue is over its capacity (intake 16, hold 8, tracker 1024), and while the FROZEN indication is
set the writer is FROZEN or HALTED. Every step keeps it. -/
def Obligations.StepKeepsSound : Prop :=
  ∀ s t : State, s.part.Sound → step s = .next t → t.part.Sound

/-- The invariant holds right after reset. -/
def Obligations.ResetIsSound : Prop := State.reset.part.Sound

end
end

