-- ==== Sys2Proof/Laws/State.lean ====
section
/-! SUPPORT. For each named update of the part, what every component of the updated part is: one lemma per component, so that
no later proof unfolds a record update. -/

namespace Sys2Proof.Laws

open Sys2Proof.Machine

/-! ### raiseEvent -/

@[simp] theorem raiseEvent_port (p : Part) (e : Event) : (raiseEvent p e).port = p.port := rfl
@[simp] theorem raiseEvent_classifier (p : Part) (e : Event) : (raiseEvent p e).classifier = p.classifier := rfl
@[simp] theorem raiseEvent_tracker (p : Part) (e : Event) : (raiseEvent p e).tracker = p.tracker := rfl
@[simp] theorem raiseEvent_hold (p : Part) (e : Event) : (raiseEvent p e).hold = p.hold := rfl
@[simp] theorem raiseEvent_slots (p : Part) (e : Event) : (raiseEvent p e).slots = p.slots := rfl
@[simp] theorem raiseEvent_writer (p : Part) (e : Event) : (raiseEvent p e).writer = p.writer := rfl
@[simp] theorem raiseEvent_channels (p : Part) (e : Event) : (raiseEvent p e).channels = p.channels := rfl
@[simp] theorem raiseEvent_restore (p : Part) (e : Event) : (raiseEvent p e).restore = p.restore := rfl
@[simp] theorem raiseEvent_arbiter (p : Part) (e : Event) : (raiseEvent p e).arbiter = p.arbiter := rfl
@[simp] theorem raiseEvent_link (p : Part) (e : Event) : (raiseEvent p e).link = p.link := rfl
@[simp] theorem raiseEvent_command (p : Part) (e : Event) : (raiseEvent p e).command = p.command := rfl
@[simp] theorem raiseEvent_events (p : Part) (e : Event) :
    (raiseEvent p e).events = { p.events with flags := p.events.flags ||| eventMask e } := rfl
@[simp] theorem raiseEvent_power (p : Part) (e : Event) : (raiseEvent p e).power = p.power := rfl
@[simp] theorem raiseEvent_now (p : Part) (e : Event) : (raiseEvent p e).now = p.now := rfl

/-! ### modChan -/

@[simp] theorem modChan_port (p : Part) (c : Chan) (f : Channel → Channel) : (modChan p c f).port = p.port := rfl
@[simp] theorem modChan_classifier (p : Part) (c : Chan) (f : Channel → Channel) :
    (modChan p c f).classifier = p.classifier := rfl
@[simp] theorem modChan_tracker (p : Part) (c : Chan) (f : Channel → Channel) :
    (modChan p c f).tracker = p.tracker := rfl
@[simp] theorem modChan_hold (p : Part) (c : Chan) (f : Channel → Channel) : (modChan p c f).hold = p.hold := rfl
@[simp] theorem modChan_slots (p : Part) (c : Chan) (f : Channel → Channel) : (modChan p c f).slots = p.slots := rfl
@[simp] theorem modChan_writer (p : Part) (c : Chan) (f : Channel → Channel) :
    (modChan p c f).writer = p.writer := rfl
@[simp] theorem modChan_channels (p : Part) (c : Chan) (f : Channel → Channel) :
    (modChan p c f).channels = setAt p.channels c (f (chan p c)) := rfl
@[simp] theorem modChan_restore (p : Part) (c : Chan) (f : Channel → Channel) :
    (modChan p c f).restore = p.restore := rfl
@[simp] theorem modChan_arbiter (p : Part) (c : Chan) (f : Channel → Channel) :
    (modChan p c f).arbiter = p.arbiter := rfl
@[simp] theorem modChan_link (p : Part) (c : Chan) (f : Channel → Channel) : (modChan p c f).link = p.link := rfl
@[simp] theorem modChan_command (p : Part) (c : Chan) (f : Channel → Channel) :
    (modChan p c f).command = p.command := rfl
@[simp] theorem modChan_events (p : Part) (c : Chan) (f : Channel → Channel) :
    (modChan p c f).events = p.events := rfl
@[simp] theorem modChan_power (p : Part) (c : Chan) (f : Channel → Channel) : (modChan p c f).power = p.power := rfl
@[simp] theorem modChan_now (p : Part) (c : Chan) (f : Channel → Channel) : (modChan p c f).now = p.now := rfl

/-! ### respond -/

@[simp] theorem respond_port (p : Part) (t : Tag) (code : RespCode) (d : List Byte) :
    (respond p t code d).port = { p.port with tags := setAt p.port.tags t false, responses := p.port.responses ++ [{ tag := t, code := code, data := d }] } := rfl
@[simp] theorem respond_classifier (p : Part) (t : Tag) (code : RespCode) (d : List Byte) :
    (respond p t code d).classifier = p.classifier := rfl
@[simp] theorem respond_tracker (p : Part) (t : Tag) (code : RespCode) (d : List Byte) :
    (respond p t code d).tracker = p.tracker := rfl
@[simp] theorem respond_hold (p : Part) (t : Tag) (code : RespCode) (d : List Byte) :
    (respond p t code d).hold = p.hold := rfl
@[simp] theorem respond_slots (p : Part) (t : Tag) (code : RespCode) (d : List Byte) :
    (respond p t code d).slots = p.slots := rfl
@[simp] theorem respond_writer (p : Part) (t : Tag) (code : RespCode) (d : List Byte) :
    (respond p t code d).writer = p.writer := rfl
@[simp] theorem respond_channels (p : Part) (t : Tag) (code : RespCode) (d : List Byte) :
    (respond p t code d).channels = p.channels := rfl
@[simp] theorem respond_restore (p : Part) (t : Tag) (code : RespCode) (d : List Byte) :
    (respond p t code d).restore = p.restore := rfl
@[simp] theorem respond_arbiter (p : Part) (t : Tag) (code : RespCode) (d : List Byte) :
    (respond p t code d).arbiter = p.arbiter := rfl
@[simp] theorem respond_link (p : Part) (t : Tag) (code : RespCode) (d : List Byte) :
    (respond p t code d).link = p.link := rfl
@[simp] theorem respond_command (p : Part) (t : Tag) (code : RespCode) (d : List Byte) :
    (respond p t code d).command = p.command := rfl
@[simp] theorem respond_events (p : Part) (t : Tag) (code : RespCode) (d : List Byte) :
    (respond p t code d).events = p.events := rfl
@[simp] theorem respond_power (p : Part) (t : Tag) (code : RespCode) (d : List Byte) :
    (respond p t code d).power = p.power := rfl
@[simp] theorem respond_now (p : Part) (t : Tag) (code : RespCode) (d : List Byte) :
    (respond p t code d).now = p.now := rfl

/-! ### handOver -/

@[simp] theorem handOver_port (p : Part) (rs : List DownReq) : (handOver p rs).port = p.port := rfl
@[simp] theorem handOver_classifier (p : Part) (rs : List DownReq) : (handOver p rs).classifier = p.classifier := rfl
@[simp] theorem handOver_tracker (p : Part) (rs : List DownReq) : (handOver p rs).tracker = p.tracker := rfl
@[simp] theorem handOver_hold (p : Part) (rs : List DownReq) : (handOver p rs).hold = p.hold := rfl
@[simp] theorem handOver_slots (p : Part) (rs : List DownReq) : (handOver p rs).slots = p.slots := rfl
@[simp] theorem handOver_writer (p : Part) (rs : List DownReq) : (handOver p rs).writer = p.writer := rfl
@[simp] theorem handOver_channels (p : Part) (rs : List DownReq) : (handOver p rs).channels = p.channels := rfl
@[simp] theorem handOver_restore (p : Part) (rs : List DownReq) : (handOver p rs).restore = p.restore := rfl
@[simp] theorem handOver_arbiter (p : Part) (rs : List DownReq) :
    (handOver p rs).arbiter = { p.arbiter with waiting := p.arbiter.waiting ++ rs } := rfl
@[simp] theorem handOver_link (p : Part) (rs : List DownReq) : (handOver p rs).link = p.link := rfl
@[simp] theorem handOver_command (p : Part) (rs : List DownReq) : (handOver p rs).command = p.command := rfl
@[simp] theorem handOver_events (p : Part) (rs : List DownReq) : (handOver p rs).events = p.events := rfl
@[simp] theorem handOver_power (p : Part) (rs : List DownReq) : (handOver p rs).power = p.power := rfl
@[simp] theorem handOver_now (p : Part) (rs : List DownReq) : (handOver p rs).now = p.now := rfl

/-! ### freeTag -/

@[simp] theorem freeTag_port (p : Part) (t : DTag) : (freeTag p t).port = p.port := rfl
@[simp] theorem freeTag_classifier (p : Part) (t : DTag) : (freeTag p t).classifier = p.classifier := rfl
@[simp] theorem freeTag_tracker (p : Part) (t : DTag) : (freeTag p t).tracker = p.tracker := rfl
@[simp] theorem freeTag_hold (p : Part) (t : DTag) : (freeTag p t).hold = p.hold := rfl
@[simp] theorem freeTag_slots (p : Part) (t : DTag) : (freeTag p t).slots = p.slots := rfl
@[simp] theorem freeTag_writer (p : Part) (t : DTag) : (freeTag p t).writer = p.writer := rfl
@[simp] theorem freeTag_channels (p : Part) (t : DTag) : (freeTag p t).channels = p.channels := rfl
@[simp] theorem freeTag_restore (p : Part) (t : DTag) : (freeTag p t).restore = p.restore := rfl
@[simp] theorem freeTag_arbiter (p : Part) (t : DTag) :
    (freeTag p t).arbiter = { p.arbiter with issued := setAt p.arbiter.issued t none } := rfl
@[simp] theorem freeTag_link (p : Part) (t : DTag) : (freeTag p t).link = p.link := rfl
@[simp] theorem freeTag_command (p : Part) (t : DTag) : (freeTag p t).command = p.command := rfl
@[simp] theorem freeTag_events (p : Part) (t : DTag) : (freeTag p t).events = p.events := rfl
@[simp] theorem freeTag_power (p : Part) (t : DTag) : (freeTag p t).power = p.power := rfl
@[simp] theorem freeTag_now (p : Part) (t : DTag) : (freeTag p t).now = p.now := rfl

/-! ### untrackLine -/

@[simp] theorem untrackLine_port (p : Part) (l : Addr) : (untrackLine p l).port = p.port := rfl
@[simp] theorem untrackLine_classifier (p : Part) (l : Addr) : (untrackLine p l).classifier = p.classifier := rfl
@[simp] theorem untrackLine_tracker (p : Part) (l : Addr) :
    (untrackLine p l).tracker = p.tracker.filter fun e => e.line != l := rfl
@[simp] theorem untrackLine_hold (p : Part) (l : Addr) : (untrackLine p l).hold = p.hold := rfl
@[simp] theorem untrackLine_slots (p : Part) (l : Addr) : (untrackLine p l).slots = p.slots := rfl
@[simp] theorem untrackLine_writer (p : Part) (l : Addr) : (untrackLine p l).writer = p.writer := rfl
@[simp] theorem untrackLine_channels (p : Part) (l : Addr) : (untrackLine p l).channels = p.channels := rfl
@[simp] theorem untrackLine_restore (p : Part) (l : Addr) : (untrackLine p l).restore = p.restore := rfl
@[simp] theorem untrackLine_arbiter (p : Part) (l : Addr) : (untrackLine p l).arbiter = p.arbiter := rfl
@[simp] theorem untrackLine_link (p : Part) (l : Addr) : (untrackLine p l).link = p.link := rfl
@[simp] theorem untrackLine_command (p : Part) (l : Addr) : (untrackLine p l).command = p.command := rfl
@[simp] theorem untrackLine_events (p : Part) (l : Addr) : (untrackLine p l).events = p.events := rfl
@[simp] theorem untrackLine_power (p : Part) (l : Addr) : (untrackLine p l).power = p.power := rfl
@[simp] theorem untrackLine_now (p : Part) (l : Addr) : (untrackLine p l).now = p.now := rfl

/-! ### trackRecord -/

@[simp] theorem trackRecord_port (p : Part) (l : Addr) (n : Seq) : (trackRecord p l n).port = p.port := rfl
@[simp] theorem trackRecord_classifier (p : Part) (l : Addr) (n : Seq) :
    (trackRecord p l n).classifier = p.classifier := rfl
@[simp] theorem trackRecord_tracker (p : Part) (l : Addr) (n : Seq) :
    (trackRecord p l n).tracker = p.tracker.map fun e => if e.line == l then { e with seq := some n } else e := rfl
@[simp] theorem trackRecord_hold (p : Part) (l : Addr) (n : Seq) : (trackRecord p l n).hold = p.hold := rfl
@[simp] theorem trackRecord_slots (p : Part) (l : Addr) (n : Seq) : (trackRecord p l n).slots = p.slots := rfl
@[simp] theorem trackRecord_writer (p : Part) (l : Addr) (n : Seq) : (trackRecord p l n).writer = p.writer := rfl
@[simp] theorem trackRecord_channels (p : Part) (l : Addr) (n : Seq) :
    (trackRecord p l n).channels = p.channels := rfl
@[simp] theorem trackRecord_restore (p : Part) (l : Addr) (n : Seq) : (trackRecord p l n).restore = p.restore := rfl
@[simp] theorem trackRecord_arbiter (p : Part) (l : Addr) (n : Seq) : (trackRecord p l n).arbiter = p.arbiter := rfl
@[simp] theorem trackRecord_link (p : Part) (l : Addr) (n : Seq) : (trackRecord p l n).link = p.link := rfl
@[simp] theorem trackRecord_command (p : Part) (l : Addr) (n : Seq) : (trackRecord p l n).command = p.command := rfl
@[simp] theorem trackRecord_events (p : Part) (l : Addr) (n : Seq) : (trackRecord p l n).events = p.events := rfl
@[simp] theorem trackRecord_power (p : Part) (l : Addr) (n : Seq) : (trackRecord p l n).power = p.power := rfl
@[simp] theorem trackRecord_now (p : Part) (l : Addr) (n : Seq) : (trackRecord p l n).now = p.now := rfl

/-! ### untrackChannel -/

@[simp] theorem untrackChannel_port (p : Part) (c : Chan) : (untrackChannel p c).port = p.port := rfl
@[simp] theorem untrackChannel_classifier (p : Part) (c : Chan) :
    (untrackChannel p c).classifier = p.classifier := rfl
@[simp] theorem untrackChannel_tracker (p : Part) (c : Chan) :
    (untrackChannel p c).tracker = p.tracker.filter fun e => e.channel != c := rfl
@[simp] theorem untrackChannel_hold (p : Part) (c : Chan) : (untrackChannel p c).hold = p.hold := rfl
@[simp] theorem untrackChannel_slots (p : Part) (c : Chan) : (untrackChannel p c).slots = p.slots := rfl
@[simp] theorem untrackChannel_writer (p : Part) (c : Chan) : (untrackChannel p c).writer = p.writer := rfl
@[simp] theorem untrackChannel_channels (p : Part) (c : Chan) : (untrackChannel p c).channels = p.channels := rfl
@[simp] theorem untrackChannel_restore (p : Part) (c : Chan) : (untrackChannel p c).restore = p.restore := rfl
@[simp] theorem untrackChannel_arbiter (p : Part) (c : Chan) : (untrackChannel p c).arbiter = p.arbiter := rfl
@[simp] theorem untrackChannel_link (p : Part) (c : Chan) : (untrackChannel p c).link = p.link := rfl
@[simp] theorem untrackChannel_command (p : Part) (c : Chan) : (untrackChannel p c).command = p.command := rfl
@[simp] theorem untrackChannel_events (p : Part) (c : Chan) : (untrackChannel p c).events = p.events := rfl
@[simp] theorem untrackChannel_power (p : Part) (c : Chan) : (untrackChannel p c).power = p.power := rfl
@[simp] theorem untrackChannel_now (p : Part) (c : Chan) : (untrackChannel p c).now = p.now := rfl

/-! ### modHold -/

@[simp] theorem modHold_port (p : Part) (t : Tag) (f : HoldEntry → HoldEntry) : (modHold p t f).port = p.port := rfl
@[simp] theorem modHold_classifier (p : Part) (t : Tag) (f : HoldEntry → HoldEntry) :
    (modHold p t f).classifier = p.classifier := rfl
@[simp] theorem modHold_tracker (p : Part) (t : Tag) (f : HoldEntry → HoldEntry) :
    (modHold p t f).tracker = p.tracker := rfl
@[simp] theorem modHold_hold (p : Part) (t : Tag) (f : HoldEntry → HoldEntry) :
    (modHold p t f).hold = { p.hold with queue := p.hold.queue.map fun e => if e.req.tag == t then f e else e } := rfl
@[simp] theorem modHold_slots (p : Part) (t : Tag) (f : HoldEntry → HoldEntry) :
    (modHold p t f).slots = p.slots := rfl
@[simp] theorem modHold_writer (p : Part) (t : Tag) (f : HoldEntry → HoldEntry) :
    (modHold p t f).writer = p.writer := rfl
@[simp] theorem modHold_channels (p : Part) (t : Tag) (f : HoldEntry → HoldEntry) :
    (modHold p t f).channels = p.channels := rfl
@[simp] theorem modHold_restore (p : Part) (t : Tag) (f : HoldEntry → HoldEntry) :
    (modHold p t f).restore = p.restore := rfl
@[simp] theorem modHold_arbiter (p : Part) (t : Tag) (f : HoldEntry → HoldEntry) :
    (modHold p t f).arbiter = p.arbiter := rfl
@[simp] theorem modHold_link (p : Part) (t : Tag) (f : HoldEntry → HoldEntry) : (modHold p t f).link = p.link := rfl
@[simp] theorem modHold_command (p : Part) (t : Tag) (f : HoldEntry → HoldEntry) :
    (modHold p t f).command = p.command := rfl
@[simp] theorem modHold_events (p : Part) (t : Tag) (f : HoldEntry → HoldEntry) :
    (modHold p t f).events = p.events := rfl
@[simp] theorem modHold_power (p : Part) (t : Tag) (f : HoldEntry → HoldEntry) :
    (modHold p t f).power = p.power := rfl
@[simp] theorem modHold_now (p : Part) (t : Tag) (f : HoldEntry → HoldEntry) : (modHold p t f).now = p.now := rfl

/-! ### leaveHold -/

@[simp] theorem leaveHold_port (p : Part) (t : Tag) : (leaveHold p t).port = p.port := rfl
@[simp] theorem leaveHold_classifier (p : Part) (t : Tag) : (leaveHold p t).classifier = p.classifier := rfl
@[simp] theorem leaveHold_tracker (p : Part) (t : Tag) : (leaveHold p t).tracker = p.tracker := rfl
@[simp] theorem leaveHold_hold (p : Part) (t : Tag) :
    (leaveHold p t).hold = { p.hold with queue := p.hold.queue.filter (fun e => e.req.tag != t), lineTest := true, headRetry := true } := rfl
@[simp] theorem leaveHold_slots (p : Part) (t : Tag) :
    (leaveHold p t).slots = p.slots.map fun s => s.map fun k => if k.owner == some t then { k with owner := none } else k := rfl
@[simp] theorem leaveHold_writer (p : Part) (t : Tag) : (leaveHold p t).writer = p.writer := rfl
@[simp] theorem leaveHold_channels (p : Part) (t : Tag) : (leaveHold p t).channels = p.channels := rfl
@[simp] theorem leaveHold_restore (p : Part) (t : Tag) : (leaveHold p t).restore = p.restore := rfl
@[simp] theorem leaveHold_arbiter (p : Part) (t : Tag) : (leaveHold p t).arbiter = p.arbiter := rfl
@[simp] theorem leaveHold_link (p : Part) (t : Tag) : (leaveHold p t).link = p.link := rfl
@[simp] theorem leaveHold_command (p : Part) (t : Tag) : (leaveHold p t).command = p.command := rfl
@[simp] theorem leaveHold_events (p : Part) (t : Tag) : (leaveHold p t).events = p.events := rfl
@[simp] theorem leaveHold_power (p : Part) (t : Tag) : (leaveHold p t).power = p.power := rfl
@[simp] theorem leaveHold_now (p : Part) (t : Tag) : (leaveHold p t).now = p.now := rfl

/-! ### modRollback -/

@[simp] theorem modRollback_port (p : Part) (f : Rollback → Rollback) : (modRollback p f).port = p.port := rfl
@[simp] theorem modRollback_classifier (p : Part) (f : Rollback → Rollback) :
    (modRollback p f).classifier = p.classifier := rfl
@[simp] theorem modRollback_tracker (p : Part) (f : Rollback → Rollback) :
    (modRollback p f).tracker = p.tracker := rfl
@[simp] theorem modRollback_hold (p : Part) (f : Rollback → Rollback) : (modRollback p f).hold = p.hold := rfl
@[simp] theorem modRollback_slots (p : Part) (f : Rollback → Rollback) : (modRollback p f).slots = p.slots := rfl
@[simp] theorem modRollback_writer (p : Part) (f : Rollback → Rollback) : (modRollback p f).writer = p.writer := rfl
@[simp] theorem modRollback_channels (p : Part) (f : Rollback → Rollback) :
    (modRollback p f).channels = p.channels := rfl
@[simp] theorem modRollback_restore (p : Part) (f : Rollback → Rollback) :
    (modRollback p f).restore = { p.restore with rollback := p.restore.rollback.map f } := rfl
@[simp] theorem modRollback_arbiter (p : Part) (f : Rollback → Rollback) :
    (modRollback p f).arbiter = p.arbiter := rfl
@[simp] theorem modRollback_link (p : Part) (f : Rollback → Rollback) : (modRollback p f).link = p.link := rfl
@[simp] theorem modRollback_command (p : Part) (f : Rollback → Rollback) :
    (modRollback p f).command = p.command := rfl
@[simp] theorem modRollback_events (p : Part) (f : Rollback → Rollback) : (modRollback p f).events = p.events := rfl
@[simp] theorem modRollback_power (p : Part) (f : Rollback → Rollback) : (modRollback p f).power = p.power := rfl
@[simp] theorem modRollback_now (p : Part) (f : Rollback → Rollback) : (modRollback p f).now = p.now := rfl

/-! ### clearMasks -/

@[simp] theorem clearMasks_port (p : Part) (c : Chan) : (clearMasks p c).port = p.port := rfl
@[simp] theorem clearMasks_classifier (p : Part) (c : Chan) : (clearMasks p c).classifier = p.classifier := rfl
@[simp] theorem clearMasks_tracker (p : Part) (c : Chan) : (clearMasks p c).tracker = p.tracker := rfl
@[simp] theorem clearMasks_hold (p : Part) (c : Chan) : (clearMasks p c).hold = p.hold := rfl
@[simp] theorem clearMasks_slots (p : Part) (c : Chan) : (clearMasks p c).slots = p.slots := rfl
@[simp] theorem clearMasks_writer (p : Part) (c : Chan) :
    (clearMasks p c).writer = { p.writer with table := p.writer.table.map fun e => { e with mask := e.mask &&& ~~~ maskBit c } } := rfl
@[simp] theorem clearMasks_channels (p : Part) (c : Chan) : (clearMasks p c).channels = p.channels := rfl
@[simp] theorem clearMasks_restore (p : Part) (c : Chan) : (clearMasks p c).restore = p.restore := rfl
@[simp] theorem clearMasks_arbiter (p : Part) (c : Chan) : (clearMasks p c).arbiter = p.arbiter := rfl
@[simp] theorem clearMasks_link (p : Part) (c : Chan) : (clearMasks p c).link = p.link := rfl
@[simp] theorem clearMasks_command (p : Part) (c : Chan) : (clearMasks p c).command = p.command := rfl
@[simp] theorem clearMasks_events (p : Part) (c : Chan) : (clearMasks p c).events = p.events := rfl
@[simp] theorem clearMasks_power (p : Part) (c : Chan) : (clearMasks p c).power = p.power := rfl
@[simp] theorem clearMasks_now (p : Part) (c : Chan) : (clearMasks p c).now = p.now := rfl

/-! ### freeSlot -/

@[simp] theorem freeSlot_port (p : Part) (k : Fin 4) : (freeSlot p k).port = p.port := rfl
@[simp] theorem freeSlot_classifier (p : Part) (k : Fin 4) : (freeSlot p k).classifier = p.classifier := rfl
@[simp] theorem freeSlot_tracker (p : Part) (k : Fin 4) : (freeSlot p k).tracker = p.tracker := rfl
@[simp] theorem freeSlot_hold (p : Part) (k : Fin 4) : (freeSlot p k).hold = p.hold := rfl
@[simp] theorem freeSlot_slots (p : Part) (k : Fin 4) : (freeSlot p k).slots = setAt p.slots k none := rfl
@[simp] theorem freeSlot_writer (p : Part) (k : Fin 4) : (freeSlot p k).writer = p.writer := rfl
@[simp] theorem freeSlot_channels (p : Part) (k : Fin 4) : (freeSlot p k).channels = p.channels := rfl
@[simp] theorem freeSlot_restore (p : Part) (k : Fin 4) : (freeSlot p k).restore = p.restore := rfl
@[simp] theorem freeSlot_arbiter (p : Part) (k : Fin 4) : (freeSlot p k).arbiter = p.arbiter := rfl
@[simp] theorem freeSlot_link (p : Part) (k : Fin 4) : (freeSlot p k).link = p.link := rfl
@[simp] theorem freeSlot_command (p : Part) (k : Fin 4) : (freeSlot p k).command = p.command := rfl
@[simp] theorem freeSlot_events (p : Part) (k : Fin 4) : (freeSlot p k).events = p.events := rfl
@[simp] theorem freeSlot_power (p : Part) (k : Fin 4) : (freeSlot p k).power = p.power := rfl
@[simp] theorem freeSlot_now (p : Part) (k : Fin 4) : (freeSlot p k).now = p.now := rfl

/-! ### setResult -/

@[simp] theorem setResult_port (p : Part) (c : CommandName) (r : CommandResult) (w : CommandReason) :
    (setResult p c r w).port = p.port := rfl
@[simp] theorem setResult_classifier (p : Part) (c : CommandName) (r : CommandResult) (w : CommandReason) :
    (setResult p c r w).classifier = p.classifier := rfl
@[simp] theorem setResult_tracker (p : Part) (c : CommandName) (r : CommandResult) (w : CommandReason) :
    (setResult p c r w).tracker = p.tracker := rfl
@[simp] theorem setResult_hold (p : Part) (c : CommandName) (r : CommandResult) (w : CommandReason) :
    (setResult p c r w).hold = p.hold := rfl
@[simp] theorem setResult_slots (p : Part) (c : CommandName) (r : CommandResult) (w : CommandReason) :
    (setResult p c r w).slots = p.slots := rfl
@[simp] theorem setResult_writer (p : Part) (c : CommandName) (r : CommandResult) (w : CommandReason) :
    (setResult p c r w).writer = p.writer := rfl
@[simp] theorem setResult_channels (p : Part) (c : CommandName) (r : CommandResult) (w : CommandReason) :
    (setResult p c r w).channels = p.channels := rfl
@[simp] theorem setResult_restore (p : Part) (c : CommandName) (r : CommandResult) (w : CommandReason) :
    (setResult p c r w).restore = p.restore := rfl
@[simp] theorem setResult_arbiter (p : Part) (c : CommandName) (r : CommandResult) (w : CommandReason) :
    (setResult p c r w).arbiter = p.arbiter := rfl
@[simp] theorem setResult_link (p : Part) (c : CommandName) (r : CommandResult) (w : CommandReason) :
    (setResult p c r w).link = p.link := rfl
@[simp] theorem setResult_command (p : Part) (c : CommandName) (r : CommandResult) (w : CommandReason) :
    (setResult p c r w).command = { p.command with last := { command := c, result := r, reason := w, detail := .none, overlap := 0 } } := rfl
@[simp] theorem setResult_events (p : Part) (c : CommandName) (r : CommandResult) (w : CommandReason) :
    (setResult p c r w).events = p.events := rfl
@[simp] theorem setResult_power (p : Part) (c : CommandName) (r : CommandResult) (w : CommandReason) :
    (setResult p c r w).power = p.power := rfl
@[simp] theorem setResult_now (p : Part) (c : CommandName) (r : CommandResult) (w : CommandReason) :
    (setResult p c r w).now = p.now := rfl

/-! ### putInForce -/

@[simp] theorem putInForce_port (p : Part) : (putInForce p).port = p.port := rfl
@[simp] theorem putInForce_classifier (p : Part) :
    (putInForce p).classifier = { p.classifier with inForce := true } := rfl
@[simp] theorem putInForce_tracker (p : Part) : (putInForce p).tracker = p.tracker := rfl
@[simp] theorem putInForce_hold (p : Part) : (putInForce p).hold = p.hold := rfl
@[simp] theorem putInForce_slots (p : Part) : (putInForce p).slots = p.slots := rfl
@[simp] theorem putInForce_writer (p : Part) : (putInForce p).writer = p.writer := rfl
@[simp] theorem putInForce_channels (p : Part) : (putInForce p).channels = p.channels := rfl
@[simp] theorem putInForce_restore (p : Part) : (putInForce p).restore = p.restore := rfl
@[simp] theorem putInForce_arbiter (p : Part) : (putInForce p).arbiter = p.arbiter := rfl
@[simp] theorem putInForce_link (p : Part) : (putInForce p).link = p.link := rfl
@[simp] theorem putInForce_command (p : Part) : (putInForce p).command = p.command := rfl
@[simp] theorem putInForce_events (p : Part) : (putInForce p).events = p.events := rfl
@[simp] theorem putInForce_power (p : Part) : (putInForce p).power = p.power := rfl
@[simp] theorem putInForce_now (p : Part) : (putInForce p).now = p.now := rfl

/-! ### queueControl -/

@[simp] theorem queueControl_port (p : Part) (r : PlaceReq) : (queueControl p r).port = p.port := rfl
@[simp] theorem queueControl_classifier (p : Part) (r : PlaceReq) :
    (queueControl p r).classifier = p.classifier := rfl
@[simp] theorem queueControl_tracker (p : Part) (r : PlaceReq) : (queueControl p r).tracker = p.tracker := rfl
@[simp] theorem queueControl_hold (p : Part) (r : PlaceReq) : (queueControl p r).hold = p.hold := rfl
@[simp] theorem queueControl_slots (p : Part) (r : PlaceReq) : (queueControl p r).slots = p.slots := rfl
@[simp] theorem queueControl_writer (p : Part) (r : PlaceReq) :
    (queueControl p r).writer = { p.writer with waiting := p.writer.waiting ++ [r] } := rfl
@[simp] theorem queueControl_channels (p : Part) (r : PlaceReq) : (queueControl p r).channels = p.channels := rfl
@[simp] theorem queueControl_restore (p : Part) (r : PlaceReq) : (queueControl p r).restore = p.restore := rfl
@[simp] theorem queueControl_arbiter (p : Part) (r : PlaceReq) : (queueControl p r).arbiter = p.arbiter := rfl
@[simp] theorem queueControl_link (p : Part) (r : PlaceReq) : (queueControl p r).link = p.link := rfl
@[simp] theorem queueControl_command (p : Part) (r : PlaceReq) : (queueControl p r).command = p.command := rfl
@[simp] theorem queueControl_events (p : Part) (r : PlaceReq) : (queueControl p r).events = p.events := rfl
@[simp] theorem queueControl_power (p : Part) (r : PlaceReq) : (queueControl p r).power = p.power := rfl
@[simp] theorem queueControl_now (p : Part) (r : PlaceReq) : (queueControl p r).now = p.now := rfl

/-! ### settleMarker -/

@[simp] theorem settleMarker_port (p : Part) (c : Chan) (code : RespCode) (r : MarkerReason) :
    (settleMarker p c code r).port = p.port := rfl
@[simp] theorem settleMarker_classifier (p : Part) (c : Chan) (code : RespCode) (r : MarkerReason) :
    (settleMarker p c code r).classifier = p.classifier := rfl
@[simp] theorem settleMarker_tracker (p : Part) (c : Chan) (code : RespCode) (r : MarkerReason) :
    (settleMarker p c code r).tracker = p.tracker := rfl
@[simp] theorem settleMarker_hold (p : Part) (c : Chan) (code : RespCode) (r : MarkerReason) :
    (settleMarker p c code r).hold = p.hold := rfl
@[simp] theorem settleMarker_slots (p : Part) (c : Chan) (code : RespCode) (r : MarkerReason) :
    (settleMarker p c code r).slots = p.slots := rfl
@[simp] theorem settleMarker_writer (p : Part) (c : Chan) (code : RespCode) (r : MarkerReason) :
    (settleMarker p c code r).writer = p.writer := rfl
@[simp] theorem settleMarker_channels (p : Part) (c : Chan) (code : RespCode) (r : MarkerReason) :
    (settleMarker p c code r).channels = setAt p.channels c { chan p c with
      marker := none, last := { (chan p c).last with result := code.asResult, reason := r } } := rfl
@[simp] theorem settleMarker_restore (p : Part) (c : Chan) (code : RespCode) (r : MarkerReason) :
    (settleMarker p c code r).restore = p.restore := rfl
@[simp] theorem settleMarker_arbiter (p : Part) (c : Chan) (code : RespCode) (r : MarkerReason) :
    (settleMarker p c code r).arbiter = p.arbiter := rfl
@[simp] theorem settleMarker_link (p : Part) (c : Chan) (code : RespCode) (r : MarkerReason) :
    (settleMarker p c code r).link = p.link := rfl
@[simp] theorem settleMarker_command (p : Part) (c : Chan) (code : RespCode) (r : MarkerReason) :
    (settleMarker p c code r).command = p.command := rfl
@[simp] theorem settleMarker_events (p : Part) (c : Chan) (code : RespCode) (r : MarkerReason) :
    (settleMarker p c code r).events = p.events := rfl
@[simp] theorem settleMarker_power (p : Part) (c : Chan) (code : RespCode) (r : MarkerReason) :
    (settleMarker p c code r).power = p.power := rfl
@[simp] theorem settleMarker_now (p : Part) (c : Chan) (code : RespCode) (r : MarkerReason) :
    (settleMarker p c code r).now = p.now := rfl

/-! ### modScan -/

@[simp] theorem modScan_port (p : Part) (s : Nat) (f : SegmentScan → SegmentScan) : (modScan p s f).port = p.port := rfl
@[simp] theorem modScan_classifier (p : Part) (s : Nat) (f : SegmentScan → SegmentScan) :
    (modScan p s f).classifier = p.classifier := rfl
@[simp] theorem modScan_tracker (p : Part) (s : Nat) (f : SegmentScan → SegmentScan) :
    (modScan p s f).tracker = p.tracker := rfl
@[simp] theorem modScan_hold (p : Part) (s : Nat) (f : SegmentScan → SegmentScan) : (modScan p s f).hold = p.hold := rfl
@[simp] theorem modScan_slots (p : Part) (s : Nat) (f : SegmentScan → SegmentScan) :
    (modScan p s f).slots = p.slots := rfl
@[simp] theorem modScan_writer (p : Part) (s : Nat) (f : SegmentScan → SegmentScan) :
    (modScan p s f).writer = p.writer := rfl
@[simp] theorem modScan_channels (p : Part) (s : Nat) (f : SegmentScan → SegmentScan) :
    (modScan p s f).channels = p.channels := rfl
@[simp] theorem modScan_restore (p : Part) (s : Nat) (f : SegmentScan → SegmentScan) :
    (modScan p s f).restore = { p.restore with
      tables := { p.restore.tables with segments := p.restore.tables.segments.modify s f } } := rfl
@[simp] theorem modScan_arbiter (p : Part) (s : Nat) (f : SegmentScan → SegmentScan) :
    (modScan p s f).arbiter = p.arbiter := rfl
@[simp] theorem modScan_link (p : Part) (s : Nat) (f : SegmentScan → SegmentScan) : (modScan p s f).link = p.link := rfl
@[simp] theorem modScan_command (p : Part) (s : Nat) (f : SegmentScan → SegmentScan) :
    (modScan p s f).command = p.command := rfl
@[simp] theorem modScan_events (p : Part) (s : Nat) (f : SegmentScan → SegmentScan) :
    (modScan p s f).events = p.events := rfl
@[simp] theorem modScan_power (p : Part) (s : Nat) (f : SegmentScan → SegmentScan) :
    (modScan p s f).power = p.power := rfl
@[simp] theorem modScan_now (p : Part) (s : Nat) (f : SegmentScan → SegmentScan) : (modScan p s f).now = p.now := rfl

/-! ### Fixed rows -/

/-- Reading the item that was written. -/
@[simp] theorem getAt_setAt_self {α : Type} {n : Nat} (v : Vector α n) (i : Fin n) (x : α) : getAt (setAt v i x) i = x := by
  simp [getAt, setAt]

/-- Reading another item than the one written. -/
theorem getAt_setAt_ne {α : Type} {n : Nat} (v : Vector α n) {i j : Fin n} (x : α) (h : i ≠ j) :
    getAt (setAt v i x) j = getAt v j := by
  have h' : i.val ≠ j.val := fun e => h (Fin.ext e)
  simp [getAt, setAt, Vector.getElem_set_ne, h']

/-- The channel that was changed. -/
@[simp] theorem chan_modChan_self (p : Part) (c : Chan) (f : Channel → Channel) : chan (modChan p c f) c = f (chan p c) := by
  simp [chan]

/-- Another channel than the one changed. -/
theorem chan_modChan_ne (p : Part) {c d : Chan} (f : Channel → Channel) (h : c ≠ d) : chan (modChan p c f) d = chan p d := by
  simp only [chan, modChan_channels]
  exact getAt_setAt_ne _ _ h

end Sys2Proof.Laws
end

