-- ==== Sys2Proof/Laws/Hold.lean ====
section
/-! SUPPORT. What the operations of the hold queue and of a channel's record do, said once: looking up after a change, an
entry's dismissal as one record, a row written twice. -/

namespace Sys2Proof.Laws

open Sys2Proof.Machine

/-! ### Fixed rows -/

/-- Of two writes to one place the second stays. -/
@[simp] theorem setAt_setAt {α : Type} {n : Nat} (v : Vector α n) (i : Fin n) (x y : α) :
    setAt (setAt v i x) i y = setAt v i y := by
  simp [setAt]

/-- Writing what is there changes nothing. -/
@[simp] theorem setAt_getAt {α : Type} {n : Nat} (v : Vector α n) (i : Fin n) : setAt v i (getAt v i) = v := by
  simp [setAt, getAt]

/-! ### The hold queue -/

/-- The entry of a tag after that entry has been changed. -/
theorem holdEntry_modHold (p : Part) (t : Tag) {f : HoldEntry → HoldEntry} (hf : ∀ e, (f e).req = e.req) :
    holdEntry (modHold p t f) t = (holdEntry p t).map f := by
  simp only [holdEntry, modHold]
  induction p.hold.queue with
  | nil => rfl
  | cons e q ih =>
    by_cases h : e.req.tag = t
    · simp [h, hf]
    · simpa [List.find?_cons, h] using ih

/-- The entry of a tag has that tag. -/
theorem tag_of_holdEntry {p : Part} {t : Tag} {e : HoldEntry} (h : holdEntry p t = some e) : e.req.tag = t := by
  simpa using List.find?_some h

/-- The entry of a tag is in the queue. -/
theorem mem_of_holdEntry {p : Part} {t : Tag} {e : HoldEntry} (h : holdEntry p t = some e) : e ∈ p.hold.queue :=
  List.mem_of_find?_eq_some h

/-- Taking an entry out forgets what was changed in it. -/
theorem filter_changed (q : List HoldEntry) (t : Tag) {f : HoldEntry → HoldEntry} (hf : ∀ e, (f e).req = e.req) :
    (q.map fun e => if e.req.tag == t then f e else e).filter (fun e => e.req.tag != t) =
      q.filter fun e => e.req.tag != t := by
  induction q with
  | nil => rfl
  | cons e q ih => by_cases h : e.req.tag = t <;> simp_all

/-- Lines untracked one after another. -/
theorem foldl_untrackLine (ls : List HoldLine) : ∀ p : Part,
    ls.foldl (fun q l => untrackLine q l.line) p =
      { p with tracker := p.tracker.filter fun x => !(ls.any fun l => l.line == x.line) } := by
  induction ls with
  | nil => intro p; simp
  | cons l ls ih =>
    intro p
    rw [List.foldl_cons, ih]
    simp only [untrackLine, List.filter_filter]
    congr 1
    refine List.filter_congr fun x _ => ?_
    rw [List.any_cons, Bool.not_or, Bool.and_comm, bne, Bool.beq_comm]

/-- A dismissal: the response, the entry out of the queue with the two tests due, its copy reads without an owner, and the
tracker entries of its HELD lines gone. -/
theorem dismiss_eq (p : Part) (e : HoldEntry) (code : RespCode) :
    dismiss p e code = { p with
      port := { p.port with tags := setAt p.port.tags e.req.tag false,
                            responses := p.port.responses ++ [{ tag := e.req.tag, code := code, data := [] }] },
      tracker := p.tracker.filter fun x => !(e.lines.any fun l => l.isHeld && l.line == x.line),
      hold := { p.hold with queue := p.hold.queue.filter (fun x => x.req.tag != e.req.tag),
                            lineTest := true, headRetry := true },
      slots := p.slots.map fun s => s.map fun k => if k.owner == some e.req.tag then { k with owner := none } else k } := by
  simp only [dismiss, discardHeld, foldl_untrackLine, leaveHold, modHold, respond, List.any_filter]
  congr 2
  exact filter_changed _ _ fun _ => rfl

end Sys2Proof.Laws
end

