-- ==== Sys2Proof/Laws/Answering.lean ====
section
/-! SUPPORT. Answering many at once, said once: the markers of a list of channels, the dismissal of a list of entries, and
what the freeze does with the hold queue, each as one record. -/

namespace Sys2Proof.Laws

open Sys2Proof.Machine

/-! ### Markers -/

/-- The answers with a code to the markers in progress of a list of channels, each channel once. -/
def markerAnswers (p : Part) (cs : List Chan) (code : RespCode) : List Response :=
  cs.eraseDups.filterMap fun c => (chan p c).marker.map fun m => { tag := m.tag, code := code, data := [] }

/-- What answering its marker leaves of a channel; one without a marker stays as it is. -/
def answeredChannel (ch : Channel) (code : RespCode) (why : MarkerReason) : Channel :=
  match ch.marker with
  | none => ch
  | some _ => { ch with marker := none, last := { ch.last with result := code.asResult, reason := why } }

/-- The channels after the markers of a list have been answered. -/
def answeredChannels (v : Vector Channel 4) (cs : List Chan) (code : RespCode) (why : MarkerReason) : Vector Channel 4 :=
  Vector.ofFn fun c => if c ∈ cs then answeredChannel (getAt v c) code why else getAt v c

@[simp] theorem getAt_answeredChannels (v : Vector Channel 4) (cs : List Chan) (code : RespCode) (why : MarkerReason)
    (c : Chan) : getAt (answeredChannels v cs code why) c =
      if c ∈ cs then answeredChannel (getAt v c) code why else getAt v c := by
  simp [answeredChannels, getAt]

/-- Two rows with the same entries are the same. -/
theorem ext_getAt {α : Type} {n : Nat} {v w : Vector α n} (h : ∀ i, getAt v i = getAt w i) : v = w := by
  ext i hi
  exact h ⟨i, hi⟩

theorem answeredChannel_idem (ch : Channel) (code : RespCode) (why : MarkerReason) :
    answeredChannel (answeredChannel ch code why) code why = answeredChannel ch code why := by
  unfold answeredChannel
  cases h : ch.marker <;> simp [h]

/-- One marker answered, as a record. -/
theorem answerMarker_eq (p : Part) (c : Chan) (code : RespCode) (why : MarkerReason) :
    answerMarker p c code why = { p with
      port := { p.port with
        tags := (markerAnswers p [c] code).foldl (fun v r => setAt v r.tag false) p.port.tags,
        responses := p.port.responses ++ markerAnswers p [c] code },
      channels := answeredChannels p.channels [c] code why } := by
  have hv : answeredChannels p.channels [c] code why = setAt p.channels c (answeredChannel (chan p c) code why) := by
    refine ext_getAt fun i => ?_
    by_cases h : i = c
    · subst h; simp [chan]
    · simp [h, getAt_setAt_ne _ _ (Ne.symm h)]
  rw [hv]
  have he : markerAnswers p [c] code =
      ((chan p c).marker.map fun m => ({ tag := m.tag, code := code, data := [] } : Response)).toList := by
    simp only [markerAnswers, show [c].eraseDups = [c] from rfl]
    cases h : (chan p c).marker <;> simp [h]
  rw [he]
  unfold answerMarker answeredChannel
  cases h : (chan p c).marker with
  | none => simp [chan]
  | some m => simp [respond, settleMarker, modChan]

/-- A channel that has been answered is not answered again. -/
theorem answerAll_filter (cs : List Chan) (code : RespCode) (why : MarkerReason) (c : Chan) : ∀ p : Part,
    (chan p c).marker = none → answerAll p cs code why = answerAll p (cs.filter (· != c)) code why := by
  induction cs with
  | nil => intro p _; rfl
  | cons d cs ih =>
    intro p h
    by_cases hd : d = c
    · subst hd
      have : answerMarker p d code why = p := by simp [answerMarker, h]
      simpa [answerAll, this] using ih p h
    · have hm : (chan (answerMarker p d code why) c).marker = none := by
        simp [answerMarker_eq, chan, Ne.symm hd] at h ⊢
        exact h
      have := ih _ hm
      simpa [answerAll, hd] using this

/-- The markers of a list of channels answered, as a record: each channel once. -/
theorem answerAll_eq (code : RespCode) (why : MarkerReason) : ∀ (n : Nat) (cs : List Chan) (p : Part), cs.length ≤ n →
    answerAll p cs code why = { p with
      port := { p.port with
        tags := (markerAnswers p cs code).foldl (fun v r => setAt v r.tag false) p.port.tags,
        responses := p.port.responses ++ markerAnswers p cs code },
      channels := answeredChannels p.channels cs code why } := by
  intro n
  induction n with
  | zero =>
    intro cs p h
    have : cs = [] := List.length_eq_zero_iff.mp (Nat.le_zero.mp h)
    subst this
    have hv : answeredChannels p.channels [] code why = p.channels := ext_getAt fun i => by simp
    simp [answerAll, markerAnswers, hv]
  | succ n ih =>
    intro cs p h
    cases cs with
    | nil => exact ih [] p (Nat.zero_le _)
    | cons c cs =>
      have h0 : (chan (answerMarker p c code why) c).marker = none := by
        unfold answerMarker
        cases hm : (chan p c).marker with
        | none => exact hm
        | some m => simp [respond, settleMarker, modChan, chan]
      have h1 : answerAll p (c :: cs) code why = answerAll (answerMarker p c code why) (cs.filter (· != c)) code why := by
        rw [← answerAll_filter cs code why c _ h0]; rfl
      have hl : (cs.filter (· != c)).length ≤ n :=
        (List.length_filter_le _ _).trans (Nat.le_of_succ_le_succ h)
      have ha : markerAnswers (answerMarker p c code why) (cs.filter (· != c)) code =
          (cs.filter (· != c)).eraseDups.filterMap fun d =>
            (chan p d).marker.map fun m => ({ tag := m.tag, code := code, data := [] } : Response) := by
        refine List.filterMap_congr fun d hd => ?_
        have hd' : d ≠ c := by
          have := List.mem_eraseDups.mp hd
          simpa using (List.mem_filter.mp this).2
        simp [answerMarker_eq, chan, hd']
      have hs : markerAnswers p (c :: cs) code = markerAnswers p [c] code ++
          markerAnswers (answerMarker p c code why) (cs.filter (· != c)) code := by
        rw [ha]
        unfold markerAnswers
        rw [List.eraseDups_cons, List.eraseDups_cons]
        simp only [List.filter_nil, List.eraseDups_nil, List.filterMap_cons, List.filterMap_nil]
        cases (chan p c).marker <;> rfl
      rw [h1, ih _ _ hl, hs]
      generalize markerAnswers (answerMarker p c code why) (cs.filter (· != c)) code = rs
      rw [answerMarker_eq]
      have hv : answeredChannels (answeredChannels p.channels [c] code why) (cs.filter (· != c)) code why =
          answeredChannels p.channels (c :: cs) code why := by
        refine ext_getAt fun i => ?_
        by_cases hi : i = c
        · subst hi; simp
        · simp [hi]
      simp [hv]

/-- The markers that a test picks, answered: the channels it picks, when it looks at each channel alone. -/
theorem answerMarkers_eq (p : Part) (pick : Part → Chan → Bool) (code : RespCode) (why : MarkerReason)
    (hp : ∀ q c d, d ≠ c → pick (answerMarker q c code why) d = pick q d) :
    answerMarkers p pick code why = answerAll p (allChannels.filter (pick p)) code why := by
  have go : ∀ (l : List Chan) (q : Part), l.Nodup → (∀ c ∈ l, pick q c = pick p c) →
      l.foldl (fun q c => if pick q c then answerMarker q c code why else q) q =
        answerAll q (l.filter (pick p)) code why := by
    intro l
    induction l with
    | nil => intro q _ _; rfl
    | cons c l ih =>
      intro q hn hq
      have hc : pick q c = pick p c := hq c (List.mem_cons_self ..)
      rw [List.foldl_cons]
      cases h : pick p c with
      | false =>
        rw [hc, h]
        simp only [List.filter_cons, h]
        exact ih q (List.nodup_cons.mp hn).2 fun d hd => hq d (List.mem_cons_of_mem _ hd)
      | true =>
        rw [hc, h]
        simp only [List.filter_cons, h, if_true]
        refine ih _ (List.nodup_cons.mp hn).2 fun d hd => ?_
        have hd' : d ≠ c := fun e => (List.nodup_cons.mp hn).1 (e ▸ hd)
        rw [hp q c d hd']
        exact hq d (List.mem_cons_of_mem _ hd)
  exact go allChannels p (by decide) fun _ _ => rfl

/-- A test of the marker in progress of one channel does not see another's answer. -/
theorem commitUnplaced_local (code : RespCode) (why : MarkerReason) (q : Part) (c d : Chan) (h : d ≠ c) :
    commitUnplaced (answerMarker q c code why) d = commitUnplaced q d := by
  simp [commitUnplaced, answerMarker_eq, chan, h]

/-- Nor does the test of a stranded commit. -/
theorem commitStranded_local (code : RespCode) (why : MarkerReason) (q : Part) (c d : Chan) (h : d ≠ c) :
    commitStranded (answerMarker q c code why) d = commitStranded q d := by
  simp [commitStranded, behindFrontier, answerMarker_eq, chan, h]

/-- Lists of markers answered one after the other. -/
theorem answerAll_append (p : Part) (cs ds : List Chan) (code : RespCode) (why : MarkerReason) :
    answerAll (answerAll p cs code why) ds code why = answerAll p (cs ++ ds) code why :=
  (List.foldl_append ..).symm

/-! ### Entries -/

/-- A line of one of the entries is HELD: its tracker entry goes with the image. -/
def heldLine (es : List HoldEntry) (line : Addr) : Bool := es.any fun e => e.lines.any fun l => l.isHeld && l.line == line

/-- The copy reads in flight of entries that leave go on without an owner. -/
def disowned (es : List HoldEntry) (v : Vector (Option CopySlot) 4) : Vector (Option CopySlot) 4 :=
  v.map fun s => s.map fun k => if es.any (fun e => k.owner == some e.req.tag) then { k with owner := none } else k

/-- The HELD images of an entry are given up: their lines are PENDING. -/
def unheld (e : HoldEntry) : HoldEntry :=
  { e with lines := e.lines.map fun l => if l.isHeld then { l with sub := .pending } else l }

/-- The part after entries have left with a code and others have given up their HELD images. -/
def afterDismissal (p : Part) (gone kept : List HoldEntry) (code : RespCode) : Part :=
  { p with
    port := { p.port with
      tags := gone.foldl (fun v e => setAt v e.req.tag false) p.port.tags,
      responses := p.port.responses ++ gone.map fun e => { tag := e.req.tag, code := code, data := [] } },
    tracker := p.tracker.filter fun x => !(heldLine (gone ++ kept) x.line),
    hold := { p.hold with
      queue := (p.hold.queue.filter fun x => !(gone.any fun e => e.req.tag == x.req.tag)).map fun x =>
        if kept.any (fun e => e.req.tag == x.req.tag) then unheld x else x,
      lineTest := p.hold.lineTest || !gone.isEmpty, headRetry := p.hold.headRetry || !gone.isEmpty },
    slots := disowned gone p.slots }

theorem afterDismissal_nil (p : Part) (code : RespCode) : afterDismissal p [] [] code = p := by
  have h1 : disowned [] p.slots = p.slots := by
    ext i hi
    simp [disowned]
  simp [afterDismissal, heldLine, h1]

@[simp] theorem unheld_req (e : HoldEntry) : (unheld e).req = e.req := rfl

/-- Images are given up once. -/
theorem unheld_unheld (e : HoldEntry) : unheld (unheld e) = unheld e := by
  simp only [unheld, List.map_map]
  congr 1
  refine List.map_congr_left fun l _ => ?_
  by_cases h : l.isHeld = true
  · simp [h, show ∀ (x : HoldLine), HoldLine.isHeld { x with sub := .pending } = false from fun _ => rfl]
  · simp [h]

/-- One more entry leaves. -/
theorem dismiss_afterDismissal (p : Part) (gone kept : List HoldEntry) (e : HoldEntry) (code : RespCode) :
    dismiss (afterDismissal p gone kept code) e code = afterDismissal p (gone ++ [e]) kept code := by
  have h1 : ((p.tracker.filter fun x => !(heldLine (gone ++ kept) x.line)).filter
      fun x => !(e.lines.any fun l => l.isHeld && l.line == x.line)) =
      p.tracker.filter fun x => !(heldLine (gone ++ [e] ++ kept) x.line) := by
    rw [List.filter_filter]
    refine List.filter_congr fun x _ => ?_
    simp only [heldLine, List.any_append, List.any_cons, List.any_nil, Bool.or_false]
    cases gone.any _ <;> cases kept.any _ <;> cases e.lines.any _ <;> rfl
  have h2 : (((p.hold.queue.filter fun x => !(gone.any fun e => e.req.tag == x.req.tag)).map fun x =>
        if kept.any (fun e => e.req.tag == x.req.tag) then unheld x else x).filter fun x => x.req.tag != e.req.tag) =
      (p.hold.queue.filter fun x => !((gone ++ [e]).any fun e => e.req.tag == x.req.tag)).map fun x =>
        if kept.any (fun e => e.req.tag == x.req.tag) then unheld x else x := by
    rw [List.filter_map, List.filter_filter]
    refine congrArg _ (List.filter_congr fun x _ => ?_)
    have : (if kept.any (fun e => e.req.tag == x.req.tag) then unheld x else x).req = x.req := by split <;> rfl
    simp only [Function.comp_apply, this, List.any_append, List.any_cons, List.any_nil, Bool.or_false, Bool.not_or, bne]
    rw [Bool.and_comm, Bool.beq_comm]
  have h3 : ((disowned gone p.slots).map fun s => s.map fun k =>
      if k.owner == some e.req.tag then { k with owner := none } else k) = disowned (gone ++ [e]) p.slots := by
    ext i hi
    simp only [disowned, Vector.getElem_map, List.any_append, List.any_cons, List.any_nil, Bool.or_false]
    cases p.slots[i] with
    | none => rfl
    | some k =>
      simp only [Option.map_some]
      cases gone.any fun e => k.owner == some e.req.tag <;> rfl
  rw [dismiss_eq]
  simp only [afterDismissal, h1, h2, h3]
  simp

/-- One more entry gives up its images. -/
theorem discardHeld_afterDismissal (p : Part) (gone kept : List HoldEntry) (e : HoldEntry) (code : RespCode) :
    discardHeld (afterDismissal p gone kept code) e = afterDismissal p gone (kept ++ [e]) code := by
  have h1 : ((p.tracker.filter fun x => !(heldLine (gone ++ kept) x.line)).filter
      fun x => !(e.lines.any fun l => l.isHeld && l.line == x.line)) =
      p.tracker.filter fun x => !(heldLine (gone ++ (kept ++ [e])) x.line) := by
    rw [List.filter_filter]
    refine List.filter_congr fun x _ => ?_
    simp only [heldLine, List.any_append, List.any_cons, List.any_nil, Bool.or_false]
    cases gone.any _ <;> cases kept.any _ <;> cases e.lines.any _ <;> rfl
  have h2 : (((p.hold.queue.filter fun x => !(gone.any fun e => e.req.tag == x.req.tag)).map fun x =>
        if kept.any (fun e => e.req.tag == x.req.tag) then unheld x else x).map fun x =>
          if x.req.tag == e.req.tag then unheld x else x) =
      (p.hold.queue.filter fun x => !(gone.any fun e => e.req.tag == x.req.tag)).map fun x =>
        if (kept ++ [e]).any (fun e => e.req.tag == x.req.tag) then unheld x else x := by
    rw [List.map_map]
    refine List.map_congr_left fun x _ => ?_
    simp only [Function.comp_apply, List.any_append, List.any_cons, List.any_nil, Bool.or_false]
    have hb : (x.req.tag == e.req.tag) = (e.req.tag == x.req.tag) := Bool.beq_comm
    cases kept.any fun e => e.req.tag == x.req.tag <;> cases h : e.req.tag == x.req.tag <;>
      simp [hb, h, unheld_unheld]
  simp only [discardHeld, foldl_untrackLine, List.any_filter, modHold, afterDismissal, h1]
  congr 2

/-- Entries dismissed one after another. -/
theorem dismissAll_eq (p : Part) (es : List HoldEntry) (code : RespCode) :
    es.foldl (fun q e => dismiss q e code) p = afterDismissal p es [] code := by
  have go : ∀ (l gone : List HoldEntry), l.foldl (fun q e => dismiss q e code) (afterDismissal p gone [] code) =
      afterDismissal p (gone ++ l) [] code := by
    intro l
    induction l with
    | nil => intro gone; simp
    | cons e l ih => intro gone; rw [List.foldl_cons, dismiss_afterDismissal, ih]; simp
  simpa [afterDismissal_nil] using go es []

/-- The entries that the freeze answers REFUSED (R164). -/
def frozenOut (e : HoldEntry) : Bool :=
  e.isWrite && e.state != .forwarding && e.state != .recording && !(e.state == .copying && e.failed)

/-- The failed entries with copy reads in flight, which wait for them (R164, log 20). -/
def frozenFailed (e : HoldEntry) : Bool := e.isWrite && e.state == .copying && e.failed

/-- What the freeze does with the hold queue (R66, R164). -/
theorem freezeEntries_eq (p : Part) (es : List HoldEntry) :
    es.foldl freezeEntry p = afterDismissal p (es.filter frozenOut) (es.filter frozenFailed) .refused := by
  have go : ∀ (l gone kept : List HoldEntry), l.foldl freezeEntry (afterDismissal p gone kept .refused) =
      afterDismissal p (gone ++ l.filter frozenOut) (kept ++ l.filter frozenFailed) .refused := by
    intro l
    induction l with
    | nil => intro gone kept; simp
    | cons e l ih =>
      intro gone kept
      have hd := dismiss_afterDismissal p gone kept e .refused
      have hk := discardHeld_afterDismissal p gone kept e .refused
      have : freezeEntry (afterDismissal p gone kept .refused) e =
          afterDismissal p (gone ++ [e].filter frozenOut) (kept ++ [e].filter frozenFailed) .refused := by
        unfold freezeEntry
        cases hw : e.isWrite
        · simp [frozenOut, frozenFailed, hw]
        · cases hs : e.state <;> cases hf : e.failed <;> simp [frozenOut, frozenFailed, hw, hs, hf, hd, hk]
      rw [List.foldl_cons, this, ih, List.append_assoc, List.append_assoc, ← List.filter_append, ← List.filter_append]
      rfl
  simpa [afterDismissal_nil] using go es [] []

end Sys2Proof.Laws
end

