-- ==== Sys2Proof/Laws/Epoch.lean ====
section
/-! SUPPORT. What the end of an epoch does, said once: the reclaim sweep and steps 1 to 5 of the closing actions, each as one
record. -/

namespace Sys2Proof.Laws

open Sys2Proof.Machine

/-- The reclaim sweep: every CLOSED segment with an empty mask becomes FREE, or HELD with SEGMENT_HELD (R104). -/
theorem sweep_eq (p : Part) :
    sweep p = { p with
      writer := { p.writer with table := p.writer.table.map fun e =>
        if e.state == .closed && e.mask == 0 then { e with state := if p.writer.retain then .held else .free } else e },
      events := { p.events with
        flags := if p.writer.retain && p.writer.table.any (fun e : SegEntry => e.state == .closed && e.mask == 0)
          then p.events.flags ||| eventMask .segmentHeld else p.events.flags } } := by
  let f : SegEntry → SegEntry := fun e =>
    if e.state == .closed && e.mask == 0 then { e with state := if p.writer.retain then .held else .free } else e
  let due : SegEntry → Bool := fun e => e.state == .closed && e.mask == 0
  have go : ∀ k ≤ p.writer.table.length,
      (List.range k).foldl (fun q i => if reclaimable q.writer i then reclaim q i else q) p = { p with
        writer := { p.writer with table := (p.writer.table.take k).map f ++ p.writer.table.drop k },
        events := { p.events with
          flags := if p.writer.retain && (p.writer.table.take k).any due
            then p.events.flags ||| eventMask .segmentHeld else p.events.flags } } := by
    intro k
    induction k with
    | zero => intro _; simp
    | succ k ih =>
      intro hk
      rw [List.range_succ, List.foldl_append, ih (by omega), List.foldl_cons, List.foldl_nil]
      have hd : p.writer.table.drop k = p.writer.table[k] :: p.writer.table.drop (k + 1) :=
        List.drop_eq_getElem_cons (by omega)
      have ht : p.writer.table.take (k + 1) = p.writer.table.take k ++ [p.writer.table[k]] := by
        rw [List.take_succ_eq_append_getElem (by omega)]
      have hl : ((p.writer.table.take k).map f).length = k := by simp; omega
      generalize hx : p.writer.table[k] = x at hd ht
      have hg : ((p.writer.table.take k).map f ++ p.writer.table.drop k)[k]? = some x := by
        rw [List.getElem?_append_right (by omega), hl, hd]; simp
      have hm : ∀ g : SegEntry → SegEntry, ((p.writer.table.take k).map f ++ p.writer.table.drop k).modify k g =
          (p.writer.table.take k).map f ++ g x :: p.writer.table.drop (k + 1) := by
        intro g; rw [hd, List.modify_eq_set_getElem?]
        rw [List.getElem?_append_right (by omega), hl]
        simp only [Nat.sub_self, List.getElem?_cons_zero, Option.map_eq_map, Option.map_some, Option.getD_some]
        rw [List.set_append_right _ _ (by omega), hl, Nat.sub_self]
        rfl
      have hrec : ∀ w : Writer, w.table = (p.writer.table.take k).map f ++ p.writer.table.drop k → reclaimable w k = due x := by
        intro w hw; rw [reclaimable, hw, hg]; rfl
      rw [hrec _ rfl, ht, List.any_append, List.map_append]
      simp only [List.map_cons, List.map_nil, List.any_cons, List.any_nil, Bool.or_false, List.append_assoc, List.singleton_append]
      cases hdue : due x
      · have hf : f x = x := by
          show (if due x then _ else x) = x
          rw [hdue]; rfl
        simp [hf, hd]
      · have hf : f x = { x with state := if p.writer.retain then .held else .free } := by
          show (if due x then _ else x) = _
          rw [hdue]; rfl
        simp only [if_true, reclaim, hm, hf]
        cases hr : p.writer.retain
        · simp
        · simp [raiseEvent]
          split
          · rw [BitVec.or_assoc, BitVec.or_self]
          · rfl
  have := go _ (Nat.le_refl _)
  unfold sweep
  rw [this]
  simp [f, due]

/-- Steps 1 to 5 of the closing actions: the tracker, the segments, the channel and the flags (R36). -/
theorem closeEpoch_eq (p : Part) (c : Chan) (o : EpochOutcome) (fl : Bool) :
    closeEpoch p c o fl = { p with
      tracker := p.tracker.filter (fun x => x.channel != c),
      writer := { p.writer with table := (p.writer.table.map fun e => { e with mask := e.mask &&& ~~~ maskBit c }).map fun e =>
        if e.state == .closed && e.mask == 0 then { e with state := if p.writer.retain then .held else .free } else e },
      channels := setAt p.channels c (closedChannel (chan p c) o fl),
      events := { p.events with
        flags := if p.writer.retain && (p.writer.table.map fun e : SegEntry =>
              { e with mask := e.mask &&& ~~~ maskBit c }).any (fun e : SegEntry => e.state == .closed && e.mask == 0)
          then p.events.flags ||| eventMask .segmentHeld else p.events.flags } } := by
  simp only [closeEpoch, sweep_eq]
  rfl

end Sys2Proof.Laws
end

