-- ==== Sys2Proof/Laws/Flags.lean ====
section
/-! SUPPORT. The event flags as bits. -/

namespace Sys2Proof.Laws

open Sys2Proof.Machine

theorem eventMask_eq (e : Event) : eventMask e = BitVec.twoPow 18 (eventBit e) := by
  cases e <;> decide

/-- An event's flag is the bit at its position. -/
theorem eventSet_eq (p : Part) (e : Event) : eventSet p e = p.events.flags.getLsbD (eventBit e) := by
  unfold eventSet
  rw [eventMask_eq, BitVec.and_twoPow]
  cases p.events.flags.getLsbD (eventBit e) with
  | false => rfl
  | true => cases e <;> decide

/-- An event that has been raised is set. -/
@[simp] theorem eventSet_raiseEvent_self (p : Part) (e : Event) : eventSet (raiseEvent p e) e = true := by
  rw [eventSet_eq, raiseEvent_events, eventMask_eq]
  cases e <;> simp [eventBit]

/-- A word is not 0 when one of its bits is 1. -/
theorem ne_zero_iff_bit {n : Nat} (x : BitVec n) : (x != 0#n) = true ↔ ∃ i, i < n ∧ x.getLsbD i = true := by
  rw [bne_iff_ne, Ne, BitVec.eq_of_getLsbD_eq_iff, Classical.not_forall]
  constructor
  · rintro ⟨i, hi⟩
    rw [Classical.not_imp] at hi
    exact ⟨i, hi.1, by simpa using hi.2⟩
  · rintro ⟨i, h, hi⟩
    exact ⟨i, by rw [Classical.not_imp]; exact ⟨h, by simp [hi]⟩⟩

end Sys2Proof.Laws
end

