-- ==== Sys2Proof/Laws/Journal.lean ====
section
/-! SUPPORT. Words and their bytes, and the fields of a record header: what is written is what is read. -/

namespace Sys2Proof.Laws

open Sys2Proof.Machine

/-- A word comes back from its four bytes. -/
theorem wordOfBytes_extract (w : Word) :
    wordOfBytes (w.extractLsb' 0 8) (w.extractLsb' 8 8) (w.extractLsb' 16 8) (w.extractLsb' 24 8) = w := by
  apply BitVec.eq_of_getLsbD_eq
  intro i hi
  simp only [wordOfBytes, BitVec.getLsbD_append, BitVec.getLsbD_extractLsb']
  interval_cases i <;> rfl

/-- The first word of a run of bytes. -/
theorem wordAt_zero (w : Word) (bs : List Byte) : wordAt (bytesOfWord w ++ bs) 0 = w := wordOfBytes_extract w

/-- A later word of a run of bytes. -/
theorem wordAt_succ (w : Word) (bs : List Byte) (k : Nat) : wordAt (bytesOfWord w ++ bs) (k + 1) = wordAt bs k := by
  have h : ∀ j, (bytesOfWord w ++ bs).getD (j + 4) 0 = bs.getD j 0 := by
    intro j
    rw [List.getD_append_right _ _ _ _ (by simp [bytesOfWord])]
    simp [bytesOfWord]
  simp only [wordAt]
  rw [show 4 * (k + 1) = 4 * k + 4 by omega, show 4 * k + 4 + 1 = 4 * k + 1 + 4 by omega,
    show 4 * k + 4 + 2 = 4 * k + 2 + 4 by omega, show 4 * k + 4 + 3 = 4 * k + 3 + 4 by omega, h, h, h, h]

/-- Word k of the bytes of a list of words. -/
theorem wordAt_flatten (ws : List Word) : ∀ (k : Nat) (bs : List Byte), k < ws.length →
    wordAt ((ws.map bytesOfWord).flatten ++ bs) k = ws.getD k 0 := by
  induction ws with
  | nil => intro k bs h; simp at h
  | cons w ws ih =>
    intro k bs h
    rw [List.map_cons, List.flatten_cons, List.append_assoc]
    cases k with
    | zero => rw [wordAt_zero]; rfl
    | succ k => rw [wordAt_succ, ih k bs (by simpa using h)]; rfl

/-- The bytes of a list of words are four for each. -/
theorem length_flatten (ws : List Word) : ((ws.map bytesOfWord).flatten).length = 4 * ws.length := by
  induction ws with
  | nil => rfl
  | cons w ws ih => rw [List.map_cons, List.flatten_cons, List.length_append, ih]; simp [bytesOfWord]; omega

/-- A header slot comes back from its 32 bytes, whatever follows them. -/
theorem headerOfBytes_append (h : HeaderSlot) (bs : List Byte) : headerOfBytes (h.bytes ++ bs) = h := by
  simp only [headerOfBytes, HeaderSlot.bytes]
  rw [wordAt_flatten _ 0 _ (by simp), wordAt_flatten _ 1 _ (by simp), wordAt_flatten _ 2 _ (by simp),
    wordAt_flatten _ 3 _ (by simp), wordAt_flatten _ 4 _ (by simp), wordAt_flatten _ 5 _ (by simp),
    wordAt_flatten _ 6 _ (by simp), wordAt_flatten _ 7 _ (by simp)]
  rfl

/-- A header slot comes back from its 32 bytes. -/
theorem headerOfBytes_bytes (h : HeaderSlot) : headerOfBytes h.bytes = h := by
  have := headerOfBytes_append h []
  rwa [List.append_nil] at this

/-! ### The fields of word 0 -/

/-- Word 0 of a record header, by its fields from the top (R74). -/
def word0 (back len : BitVec 8) (overflowed fault torn : Bool) (c : BitVec 2) (k : BitVec 8) : Word :=
  back ++ len ++ 0#1 ++ BitVec.ofBool overflowed ++ BitVec.ofBool fault ++ BitVec.ofBool torn ++ 0#2 ++ c ++ k

section
variable (back len : BitVec 8) (o f t : Bool) (c : BitVec 2) (k : BitVec 8)

theorem word0_kind : (word0 back len o f t c k).extractLsb' 0 8 = k := by
  apply BitVec.eq_of_getLsbD_eq
  intro i hi
  simp only [word0, BitVec.getLsbD_append, BitVec.getLsbD_extractLsb']
  interval_cases i <;> rfl

theorem word0_channel : (word0 back len o f t c k).extractLsb' 8 2 = c := by
  apply BitVec.eq_of_getLsbD_eq
  intro i hi
  simp only [word0, BitVec.getLsbD_append, BitVec.getLsbD_extractLsb']
  interval_cases i <;> rfl

theorem word0_length : (word0 back len o f t c k).extractLsb' 16 8 = len := by
  apply BitVec.eq_of_getLsbD_eq
  intro i hi
  simp only [word0, BitVec.getLsbD_append, BitVec.getLsbD_extractLsb']
  interval_cases i <;> rfl

theorem word0_back : (word0 back len o f t c k).extractLsb' 24 8 = back := by
  apply BitVec.eq_of_getLsbD_eq
  intro i hi
  simp only [word0, BitVec.getLsbD_append, BitVec.getLsbD_extractLsb']
  interval_cases i <;> rfl

theorem word0_torn : (word0 back len o f t c k).getLsbD 12 = t := by
  simp only [word0, BitVec.getLsbD_append]; cases t <;> rfl

theorem word0_fault : (word0 back len o f t c k).getLsbD 13 = f := by
  simp only [word0, BitVec.getLsbD_append]; cases f <;> rfl

theorem word0_overflowed : (word0 back len o f t c k).getLsbD 14 = o := by
  simp only [word0, BitVec.getLsbD_append]; cases o <;> rfl

end

/-- Word 0 of a placed record. -/
theorem placedHeader_w0 (identity : Word) (r : PlaceReq) (n : Seq) (len back : Nat) :
    (placedHeader identity r n len back).w0 =
      word0 (BitVec.ofNat 8 back) (BitVec.ofNat 8 len) r.overflowed r.fault r.torn (BitVec.ofNat 2 r.channel.val)
        (BitVec.ofNat 8 (kindCode r.kind)) := rfl

/-- The kind of a placed record. -/
theorem placedHeader_kind (identity : Word) (r : PlaceReq) (n : Seq) (len back : Nat) :
    (placedHeader identity r n len back).kind = some r.kind := by
  rw [HeaderSlot.kind, placedHeader_w0, word0_kind]
  cases r.kind <;> rfl

/-- A 48-bit number from its lower and upper parts. -/
theorem split48 (n : Nat) (h : n < 2 ^ 48) : n % 2 ^ 32 + 2 ^ 32 * (n / 2 ^ 32 % 2 ^ 16) = n := by omega

/-- The sequence number of a placed record. -/
theorem placedHeader_seq (identity : Word) (r : PlaceReq) {n : Seq} (len back : Nat) (hn : n < 2 ^ 48) :
    (placedHeader identity r n len back).seq = n := by
  have h3 : ((r.region ++ BitVec.ofNat 16 (n / 2 ^ 32)).extractLsb' 0 16) = BitVec.ofNat 16 (n / 2 ^ 32) := by
    apply BitVec.eq_of_getLsbD_eq
    intro i hi
    simp only [BitVec.getLsbD_extractLsb', BitVec.getLsbD_append]
    simp [hi]
  show (BitVec.ofNat 32 n).toNat + 2 ^ 32 * ((r.region ++ BitVec.ofNat 16 (n / 2 ^ 32)).extractLsb' 0 16).toNat = n
  rw [h3, BitVec.toNat_ofNat, BitVec.toNat_ofNat]
  exact split48 n hn

/-- The line of a placed UNDO record. -/
theorem placedHeader_line (identity : Word) (r : PlaceReq) (n : Seq) (len back : Nat) (h : r.kind = .undo) :
    (placedHeader identity r n len back).line = r.line := by
  have h4 : (placedHeader identity r n len back).w4 = r.line.extractLsb' 0 32 := by
    simp [placedHeader, headerFields, h]
  have h5 : (placedHeader identity r n len back).w5 = (r.line.extractLsb' 32 8).zeroExtend 32 := by
    simp [placedHeader, headerFields, h]
  rw [HeaderSlot.line, h4, h5]
  apply BitVec.eq_of_getLsbD_eq
  intro i hi
  simp only [BitVec.getLsbD_append, BitVec.getLsbD_extractLsb', BitVec.truncate_eq_setWidth, BitVec.getLsbD_setWidth]
  interval_cases i <;> rfl

/-- The check word of a placed record matches what it covers (R73). -/
theorem placedHeader_check (identity : Word) (r : PlaceReq) (n : Seq) (len back : Nat) :
    checkMatches identity (placedHeader identity r n len back)
      (match r.kind with
        | .undo => payloadWords r.image
        | .commit | .abort | .torn | .pad => []) = true := by
  simp only [checkMatches, beq_iff_eq]; rfl

end Sys2Proof.Laws
end

