-- ==== Sys2Proof/Laws/Settle.lean ====
section
/-! SUPPORT. What settling does: nothing at rest, and nothing but internal events otherwise. -/

namespace Sys2Proof.Laws

open Sys2Proof.Machine

/-- A part at rest settles to itself. -/
theorem settle_of_atRest {p : Part} (h : p.AtRest) : settle p = p := by
  have h' : internal p = none := h
  rw [settle, show Config.settleFuel = 1023 + 1 from rfl, settleFor, h']

/-- The internal event that is carried out is one of the eleven. -/
theorem internal_cases {p q : Part} (hq : internal p = some q) :
    (∃ e, q = forward p e) ∨ (∃ c, q = commitEnd p c) ∨ rollbackStep p = some q ∨ lineTestStep p = some q ∨
      (∃ c, q = commitAsks p c) ∨ abortStep p = some q ∨ resumeStep p = some q ∨ waitingStep p = some q ∨
      heldStep p = some q ∨ headRetryStep p = some q ∨ assignSlot p = some q := by
  simp only [internal, Option.or_eq_some_iff, forwardStep, commitEndStep, commitAskStep, Option.map_eq_some_iff] at hq
  rcases hq with ⟨e, -, h⟩ | ⟨-, ⟨c, -, h⟩ | ⟨-, h | ⟨-, h | ⟨-, ⟨c, -, h⟩ | ⟨-, h | ⟨-, h | ⟨-, h | ⟨-, h | ⟨-,
    h | ⟨-, h⟩⟩⟩⟩⟩⟩⟩⟩⟩⟩
  · exact .inl ⟨e, h.symm⟩
  · exact .inr (.inl ⟨c, h.symm⟩)
  · exact .inr (.inr (.inl h))
  · exact .inr (.inr (.inr (.inl h)))
  · exact .inr (.inr (.inr (.inr (.inl ⟨c, h.symm⟩))))
  · exact .inr (.inr (.inr (.inr (.inr (.inl h)))))
  · exact .inr (.inr (.inr (.inr (.inr (.inr (.inl h))))))
  · exact .inr (.inr (.inr (.inr (.inr (.inr (.inr (.inl h)))))))
  · exact .inr (.inr (.inr (.inr (.inr (.inr (.inr (.inr (.inl h))))))))
  · exact .inr (.inr (.inr (.inr (.inr (.inr (.inr (.inr (.inr (.inl h)))))))))
  · exact .inr (.inr (.inr (.inr (.inr (.inr (.inr (.inr (.inr (.inr h)))))))))

/-- What every internal event keeps, settling keeps. -/
theorem settle_induct {P : Part → Prop} (hP : ∀ p q, P p → internal p = some q → P q) {p : Part} (h : P p) :
    P (settle p) := by
  have go : ∀ k p, P p → P (settleFor k p) := by
    intro k
    induction k with
    | zero => exact fun _ h => h
    | succ k ih =>
      intro p h
      unfold settleFor
      split
      · exact h
      next hq => exact ih _ (hP _ _ h hq)
  exact go _ _ h

end Sys2Proof.Laws
end

