-- ==== Sys2Proof/Laws/Keeps.lean ====
section
/-! SUPPORT. What the operations of the blocks keep: one lemma per operation, in the order of the files that define them. So
settling keeps it too. -/

namespace Sys2Proof.Laws

open Sys2Proof.Machine

/-- The writer's condition, and how it halted. -/
def standing (w : Writer) := (w.state, w.haltCause, w.haltSegment)

/-- The ways the writer's standing changes of itself: a RUNNING or SUSPENDED writer becomes RUNNING, SUSPENDED or HALTED;
every other stays as it is (R95, R98, R103). -/
def WriterMoves (a b : WriterState × HaltCause × Option Nat) : Prop :=
  a = b ∨ ((a.1 = .running ∨ a.1 = .suspended) ∧ (b.1 = .running ∨ b.1 = .suspended ∨ b.1 = .halted))

/-- What internal work never touches: configuration, the link, the command slot, the freeze, the time, the tags memory
still owes an answer, and all of recovery. -/
def untouched (p : Part) :=
  ((p.classifier, p.link, p.command, p.power, p.now),
    (p.hold.limit, p.arbiter.mode, p.arbiter.lastTurn, p.arbiter.issued, p.events.enables, p.port.protocol, p.writer.retain),
    (p.restore.recovery, p.restore.lastFailure, p.restore.stage, p.restore.left, p.restore.previous, p.restore.tables,
      p.restore.report))

/-- What internal work keeps, from one part to a later one: capacities, the ways of the writer, flags that are set,
responses that are sent, and what it never touches. -/
def Keeps (p0 p : Part) : Prop :=
  (p0.Fits → p.Fits) ∧ WriterMoves (standing p0.writer) (standing p.writer) ∧
    (∀ i, p0.events.flags.getLsbD i = true → p.events.flags.getLsbD i = true) ∧
    p0.port.responses <+: p.port.responses ∧ untouched p = untouched p0

theorem WriterMoves.refl (a : WriterState × HaltCause × Option Nat) : WriterMoves a a := Or.inl rfl

theorem WriterMoves.trans {a b c : WriterState × HaltCause × Option Nat} (h : WriterMoves a b) (k : WriterMoves b c) :
    WriterMoves a c := by
  obtain ⟨a, x⟩ := a
  obtain ⟨b, y⟩ := b
  obtain ⟨c, z⟩ := c
  unfold WriterMoves at *
  cases a <;> cases b <;> cases c <;> simp_all

theorem Keeps.refl (p : Part) : Keeps p p :=
  ⟨id, .refl _, fun _ h => h, List.prefix_rfl, rfl⟩

/-- A later part that holds no more, whose writer has moved only in its own ways, and that is alike in the rest. -/
theorem Keeps.of_le {p0 p q : Part} (h : Keeps p0 p) (hi : q.port.intake.length ≤ p.port.intake.length)
    (hh : q.hold.queue.length ≤ p.hold.queue.length) (ht : q.tracker.length ≤ p.tracker.length)
    (hw : WriterMoves (standing p.writer) (standing q.writer)) (he : q.events.flags = p.events.flags)
    (hr : q.port.responses = p.port.responses) (hu : untouched q = untouched p) : Keeps p0 q := by
  obtain ⟨h1, h2, h3, h4, h5⟩ := h
  refine ⟨fun f => ?_, h2.trans hw, by rw [he]; exact h3, by rw [hr]; exact h4, hu.trans h5⟩
  exact ⟨hi.trans (h1 f).1, hh.trans (h1 f).2.1, ht.trans (h1 f).2.2⟩

/-- A fold of steps that each keep what internal work keeps. -/
theorem Keeps.foldl {α : Type} {p0 : Part} {f : Part → α → Part} (hf : ∀ q a, Keeps p0 q → Keeps p0 (f q a))
    (l : List α) : ∀ {p : Part}, Keeps p0 p → Keeps p0 (l.foldl f p) := by
  induction l with
  | nil => exact fun h => h
  | cons a l ih => exact fun h => ih (hf _ a h)

/-- A writer whose standing and RETAIN do not change. -/
theorem Keeps.writer {p0 p : Part} (h : Keeps p0 p) (w : Writer) (hw : standing w = standing p.writer)
    (hr : w.retain = p.writer.retain) : Keeps p0 ({ p with writer := w } : Part) :=
  Keeps.of_le h le_rfl le_rfl le_rfl (hw ▸ .refl _) rfl rfl (by simp [untouched, hr])

/-- A part with no line tracked. -/
theorem Keeps.noTracker {p0 p : Part} (h : Keeps p0 p) : Keeps p0 ({ p with tracker := [] } : Part) :=
  Keeps.of_le h le_rfl le_rfl (Nat.zero_le _) (.refl _) rfl rfl rfl

/-- Copy slots do not matter. -/
theorem Keeps.slots {p0 p : Part} (h : Keeps p0 p) (s : Vector (Option CopySlot) 4) :
    Keeps p0 ({ p with slots := s } : Part) := h

/-! ### Operations (Ops) -/

theorem Keeps.raiseEvent {p0 p : Part} (h : Keeps p0 p) (e : Event) : Keeps p0 (raiseEvent p e) := by
  obtain ⟨h1, h2, h3, h4, h5⟩ := h
  exact ⟨h1, h2, fun i hi => by simp [h3 i hi], h4, h5⟩

theorem Keeps.modChan {p0 p : Part} (h : Keeps p0 p) (c : Chan) (f : Channel → Channel) : Keeps p0 (modChan p c f) := h

theorem Keeps.respond {p0 p : Part} (h : Keeps p0 p) (t : Tag) (code : RespCode) (d : List Byte) :
    Keeps p0 (respond p t code d) := by
  obtain ⟨h1, h2, h3, h4, h5⟩ := h
  exact ⟨h1, h2, h3, h4.trans (List.prefix_append _ _), h5⟩

theorem Keeps.handOver {p0 p : Part} (h : Keeps p0 p) (rs : List DownReq) : Keeps p0 (handOver p rs) := h

theorem Keeps.untrackLine {p0 p : Part} (h : Keeps p0 p) (l : Addr) : Keeps p0 (untrackLine p l) :=
  Keeps.of_le h le_rfl le_rfl (by simpa using List.length_filter_le _ _) (.refl _) rfl rfl rfl

theorem Keeps.trackRecord {p0 p : Part} (h : Keeps p0 p) (l : Addr) (n : Seq) : Keeps p0 (trackRecord p l n) :=
  Keeps.of_le h le_rfl le_rfl (by simp) (.refl _) rfl rfl rfl

theorem Keeps.untrackChannel {p0 p : Part} (h : Keeps p0 p) (c : Chan) : Keeps p0 (untrackChannel p c) :=
  Keeps.of_le h le_rfl le_rfl (by simpa using List.length_filter_le _ _) (.refl _) rfl rfl rfl

theorem Keeps.modHold {p0 p : Part} (h : Keeps p0 p) (t : Tag) (f : HoldEntry → HoldEntry) : Keeps p0 (modHold p t f) :=
  Keeps.of_le h le_rfl (by simp) le_rfl (.refl _) rfl rfl rfl

theorem Keeps.discardHeld {p0 p : Part} (h : Keeps p0 p) (e : HoldEntry) : Keeps p0 (discardHeld p e) :=
  Keeps.modHold (Keeps.foldl (fun _ l hq => Keeps.untrackLine hq l.line) _ h) _ _

theorem Keeps.leaveHold {p0 p : Part} (h : Keeps p0 p) (t : Tag) : Keeps p0 (leaveHold p t) :=
  Keeps.of_le h le_rfl (by simpa using List.length_filter_le _ _) le_rfl (.refl _) rfl rfl rfl

theorem Keeps.dismiss {p0 p : Part} (h : Keeps p0 p) (e : HoldEntry) (code : RespCode) : Keeps p0 (dismiss p e code) :=
  Keeps.respond (Keeps.leaveHold (Keeps.discardHeld h e) _) _ _ _

theorem Keeps.settleMarker {p0 p : Part} (h : Keeps p0 p) (c : Chan) (code : RespCode) (r : MarkerReason) :
    Keeps p0 (settleMarker p c code r) := h

theorem Keeps.answerMarker {p0 p : Part} (h : Keeps p0 p) (c : Chan) (code : RespCode) (r : MarkerReason) :
    Keeps p0 (answerMarker p c code r) := by
  unfold Machine.answerMarker
  split
  · exact h
  · exact Keeps.respond (Keeps.settleMarker h c _ _) _ _ _

theorem Keeps.answerMarkers {p0 p : Part} (h : Keeps p0 p) (pick : Part → Chan → Bool) (code : RespCode) (r : MarkerReason) :
    Keeps p0 (answerMarkers p pick code r) :=
  Keeps.foldl (fun _ c hq => by split; exacts [Keeps.answerMarker hq c code r, hq]) _ h

theorem Keeps.answerAll {p0 p : Part} (h : Keeps p0 p) (cs : List Chan) (code : RespCode) (r : MarkerReason) :
    Keeps p0 (answerAll p cs code r) :=
  Keeps.foldl (fun _ c hq => Keeps.answerMarker hq c code r) _ h

theorem Keeps.modRollback {p0 p : Part} (h : Keeps p0 p) (f : Rollback → Rollback) : Keeps p0 (modRollback p f) := h

theorem Keeps.setSubstate {p0 p : Part} (h : Keeps p0 p) (c : Chan) (s : Substate) : Keeps p0 (setSubstate p c s) := h

/-! ### The writer (Writer) -/

theorem Keeps.clearCursor {p0 p : Part} (h : Keeps p0 p) : Keeps p0 (clearCursor p) := h

theorem Keeps.haltRollbacks {p0 p : Part} (h : Keeps p0 p) : Keeps p0 (haltRollbacks p) := by
  unfold Machine.haltRollbacks
  extract_lets served queued p1 r p2 p3
  have h1 : Keeps p0 p1 := Keeps.foldl (fun _ c hq => Keeps.setSubstate hq c _) _ h
  have h2 : Keeps p0 p2 := h1
  have h3 : Keeps p0 p3 := by
    change Keeps p0 (if _ then _ else _)
    split
    · exact h2
    · exact Keeps.clearCursor (Keeps.modRollback h2 _)
  exact Keeps.answerAll h3 _ _ _

theorem Keeps.refuseUnforwarded {p0 p : Part} (h : Keeps p0 p) : Keeps p0 (refuseUnforwarded p) :=
  Keeps.foldl (fun _ e hq => Keeps.dismiss hq e _) _ h

/-- The part at the moment its writer halts. -/
def halting (p : Part) (cause : HaltCause) (seg : Nat) : Part :=
  { Machine.raiseEvent p .writerHalted with
    writer := { p.writer with state := .halted, haltCause := cause, haltSegment := some seg, waiting := [] } }

/-- What a halt keeps of the part at that moment. -/
theorem Keeps.halting {p0 p : Part} {cause : HaltCause} {seg : Nat} (h2 : Keeps p0 (halting p cause seg)) :
    Keeps p0 (haltWriter p cause seg) :=
  Keeps.noTracker (Keeps.refuseUnforwarded (Keeps.haltRollbacks (Keeps.answerMarkers h2 _ _ _)))

/-- A RUNNING or SUSPENDED writer can halt. -/
theorem Keeps.haltWriter {p0 p : Part} (h : Keeps p0 p) (hs : p.writer.state = .running ∨ p.writer.state = .suspended)
    (cause : HaltCause) (seg : Nat) : Keeps p0 (haltWriter p cause seg) := by
  refine Keeps.halting ?_
  exact Keeps.of_le (Keeps.raiseEvent h .writerHalted) le_rfl le_rfl le_rfl (Or.inr ⟨hs, Or.inr (Or.inr rfl)⟩) rfl rfl rfl

theorem Keeps.presentHeld {p0 p : Part} (h : Keeps p0 p) (seg : Nat) : Keeps p0 (presentHeld p seg) := h

theorem Keeps.putRecord {p0 p : Part} (h : Keeps p0 p) (i : Nat) (e : SegEntry) (r : PlaceReq) : Keeps p0 (putRecord p i e r) := by
  unfold Machine.putRecord; dsimp only; split <;> exact h

theorem Keeps.reclaim {p0 p : Part} (h : Keeps p0 p) (i : Nat) : Keeps p0 (reclaim p i) := by
  unfold Machine.reclaim; dsimp only
  split
  · refine Keeps.raiseEvent ?_ _; exact h
  · exact h

theorem Keeps.closeSegment {p0 p : Part} (h : Keeps p0 p) (i : Nat) : Keeps p0 (closeSegment p i) := by
  unfold Machine.closeSegment; dsimp only
  split
  · refine Keeps.reclaim ?_ i
    exact h
  · exact h

theorem Keeps.activate {p0 p : Part} (h : Keeps p0 p) (j : Nat) : Keeps p0 (activate p j) := h

theorem Keeps.openSegment {p0 p : Part} (h : Keeps p0 p) (i : Nat) (e : SegEntry) : Keeps p0 (openSegment p i e) := by
  unfold Machine.openSegment; dsimp only
  have h1 : Keeps p0 (Machine.closeSegment
      (if slotsFree p.classifier.geometry e = 0 then p else Machine.putRecord p i e padRequest) i) := by
    refine Keeps.closeSegment ?_ i
    split
    · exact h
    · exact Keeps.putRecord h i e _
  split
  · exact h1
  · exact Keeps.activate h1 _

/-- A writer that accepts a kind of record is RUNNING or SUSPENDED. -/
theorem works_of_accepts {p : Part} {k : RecordKind} (ha : accepts p k = true) :
    p.writer.state = .running ∨ p.writer.state = .suspended := by
  simp only [accepts, Bool.and_eq_true, Bool.or_eq_true, beq_iff_eq] at ha
  exact ha.2.imp id fun h => h.1

theorem Keeps.place {p0 p : Part} (h : Keeps p0 p) (r : PlaceReq) : Keeps p0 (place p r).1 := by
  unfold Machine.place
  split
  next ha =>
    have hs := works_of_accepts ha
    split
    · exact h
    · split
      · split
        · exact Keeps.putRecord h _ _ _
        · exact Keeps.haltWriter h hs _ _
      · split
        · dsimp only
          generalize (if slotsFree _ _ = 0 then 0 else 1) = pads
          split
          · have h1 := fun i e => Keeps.openSegment h i e
            split
            · exact h1 _ _
            · exact Keeps.putRecord (h1 _ _) _ _ _
          · exact Keeps.haltWriter h hs _ _
        · exact h
  · exact h

theorem Keeps.placeUndo {p0 p : Part} (h : Keeps p0 p) (r : PlaceReq) : Keeps p0 (placeUndo p r).1 := by
  unfold Machine.placeUndo; dsimp only
  split
  next hc =>
    simp only [Bool.and_eq_true, beq_iff_eq] at hc
    refine Keeps.raiseEvent ?_ _
    exact Keeps.of_le (Keeps.place h r) le_rfl le_rfl le_rfl (Or.inr ⟨Or.inl hc.1.2, Or.inr (Or.inl rfl)⟩) rfl rfl rfl
  · exact Keeps.place h r

theorem Keeps.clearMasks {p0 p : Part} (h : Keeps p0 p) (c : Chan) : Keeps p0 (clearMasks p c) := h

theorem Keeps.sweep {p0 p : Part} (h : Keeps p0 p) : Keeps p0 (sweep p) :=
  Keeps.foldl (fun _ i hq => by split; exacts [Keeps.reclaim hq i, hq]) _ h

theorem Keeps.noteFrontier {p0 p : Part} (h : Keeps p0 p) : Keeps p0 (noteFrontier p) :=
  Keeps.of_le h le_rfl (by simp [Machine.noteFrontier]) le_rfl (.refl _) rfl rfl rfl

theorem Keeps.raiseFrontier {p0 p : Part} (h : Keeps p0 p) : Keeps p0 (raiseFrontier p) :=
  Keeps.noteFrontier (p := { p with writer := _ }) h

theorem Keeps.modJournal {p0 p : Part} (h : Keeps p0 p) (w : Purpose) (f : JournalWrite → JournalWrite) :
    Keeps p0 (modJournal p w f) := h

theorem Keeps.journalWriteDone {p0 p : Part} (h : Keeps p0 p) (w : Purpose) : Keeps p0 (journalWriteDone p w) := by
  unfold Machine.journalWriteDone; dsimp only
  refine Keeps.raiseFrontier ?_
  split <;> exact h

/-! ### The hold unit and the copy engine (Hold) -/

theorem Keeps.countHits {p0 p : Part} (h : Keeps p0 p) (c : Chan) (ls : List HoldLine) : Keeps p0 (countHits p c ls) := h

theorem Keeps.countJournaled {p0 p : Part} (h : Keeps p0 p) (c : Chan) : Keeps p0 (countJournaled p c) := h

theorem Keeps.countOutstanding {p0 p : Part} (h : Keeps p0 p) (c : Chan) : Keeps p0 (countOutstanding p c) := h

theorem Keeps.uncountOutstanding {p0 p : Part} (h : Keeps p0 p) (c : Chan) : Keeps p0 (uncountOutstanding p c) := h

theorem Keeps.forward {p0 p : Part} (h : Keeps p0 p) (e : HoldEntry) : Keeps p0 (forward p e) := by
  have h1 := Keeps.modHold h e.req.tag fun x => { x with state := .forwarding }
  unfold Machine.forward; dsimp only
  split <;> exact h1

theorem Keeps.markTorn {p0 p : Part} (h : Keeps p0 p) (e : HoldEntry) : Keeps p0 (markTorn p e) :=
  Keeps.modHold (Keeps.discardHeld h e) _ _

theorem Keeps.tornPath {p0 p : Part} (h : Keeps p0 p) (e : HoldEntry) : Keeps p0 (tornPath p e) := by
  have hp := Keeps.place h (tornRequest e)
  unfold Machine.tornPath
  split
  · exact Keeps.markTorn h e
  · split
    next p1 n heq =>
      rw [heq] at hp
      exact Keeps.markTorn (Keeps.modChan hp _ _) e
    next p1 heq =>
      rw [heq] at hp
      split
      · exact Keeps.dismiss hp _ _
      · exact hp

theorem Keeps.expire {p0 p : Part} (h : Keeps p0 p) (e : HoldEntry) : Keeps p0 (expire p e) := by
  unfold Machine.expire; dsimp only
  split
  · exact Keeps.tornPath (Keeps.modChan (Keeps.raiseEvent h _) _ _) e
  · exact Keeps.dismiss (Keeps.modChan (Keeps.raiseEvent h _) _ _) e _

theorem Keeps.expireLate {p0 p : Part} (h : Keeps p0 p) (t : Tag) : Keeps p0 (expireLate p t) := by
  unfold Machine.expireLate
  repeat' split
  all_goals first
    | exact Keeps.expire h _
    | exact h

/-- An entry joins only where there is room. -/
theorem Keeps.joinHold {p0 p q : Part} (h : Keeps p0 p) {e : HoldEntry} (hq : joinHold p e = some q) : Keeps p0 q := by
  unfold Machine.joinHold at hq
  split at hq
  next hl =>
    cases hq
    exact ⟨fun f => ⟨(h.1 f).1, by simpa using hl, (h.1 f).2.2⟩, h.2⟩
  · cases hq

theorem Keeps.takeRead {p0 p q : Part} (h : Keeps p0 p) {r : Request} {k : Classification} (hq : takeRead p r k = some q) :
    Keeps p0 q := by
  unfold Machine.takeRead at hq
  split at hq
  · exact Keeps.joinHold h hq
  · split at hq
    · exact Keeps.joinHold h hq
    · cases hq; exact h

theorem Keeps.takeOpenWrite {p0 p q : Part} (h : Keeps p0 p) {r : Request} {k : Classification}
    (hq : takeOpenWrite p r k = some q) : Keeps p0 q := by
  unfold Machine.takeOpenWrite at hq; dsimp only at hq
  split at hq
  · exact Keeps.joinHold h hq
  · split at hq
    · cases hq; exact h
    · exact Keeps.joinHold (Keeps.countHits h _ _) hq

theorem Keeps.takeWrite {p0 p q : Part} (h : Keeps p0 p) {r : Request} {k : Classification} (hq : takeWrite p r k = some q) :
    Keeps p0 q := by
  unfold Machine.takeWrite at hq
  split at hq
  · cases hq; exact Keeps.respond h _ _ _
  · split at hq
    · cases hq; exact Keeps.respond h _ _ _
    · exact Keeps.joinHold h hq
    · exact Keeps.joinHold h hq
    · refine Keeps.takeOpenWrite ?_ hq
      split
      · exact h
      · exact Keeps.countJournaled h _

theorem Keeps.holdTake {p0 p q : Part} (h : Keeps p0 p) {r : Request} {k : Classification} (hq : holdTake p r k = some q) :
    Keeps p0 q := by
  unfold Machine.holdTake at hq
  split at hq
  · exact Keeps.takeRead h hq
  · exact Keeps.takeWrite h hq

theorem Keeps.proceed {p0 p : Part} (h : Keeps p0 p) (e : HoldEntry) : Keeps p0 (proceed p e) := by
  unfold Machine.proceed; dsimp only
  split
  · split
    · exact Keeps.forward (Keeps.modHold (Keeps.countHits h _ _) _ _) e
    · exact Keeps.expireLate (Keeps.modHold (Keeps.countHits h _ _) _ _) _
  · exact Keeps.forward h e

theorem Keeps.releaseOne {p0 p : Part} (h : Keeps p0 p) (t : Tag) : Keeps p0 (releaseOne p t) := by
  unfold Machine.releaseOne; dsimp only
  split
  · exact h
  next e _ =>
    have h1 : Keeps p0 (if e.isWrite then Machine.countJournaled p e.channel else p) := by split <;> exact h
    generalize (if e.isWrite then Machine.countJournaled p e.channel else p) = p1 at h1
    split
    · exact Keeps.dismiss h _ _
    · split
      · exact Keeps.expireLate (Keeps.modHold h1 _ _) _
      · exact Keeps.proceed (Keeps.modHold h1 _ _) _

theorem Keeps.releaseEpoch {p0 p : Part} (h : Keeps p0 p) (c : Chan) : Keeps p0 (releaseEpoch p c) :=
  Keeps.foldl (fun _ t hq => Keeps.releaseOne hq t) _ h

theorem Keeps.modLine {p0 p : Part} (h : Keeps p0 p) (t : Tag) (l : Addr) (f : HoldLine → HoldLine) : Keeps p0 (modLine p t l f) :=
  Keeps.modHold h _ _

/-- The tracker takes a line only where there is room. -/
theorem Keeps.startCopy {p0 p : Part} (h : Keeps p0 p) (k : Fin 4) (e : HoldEntry) (l : HoldLine) :
    Keeps p0 (startCopy p k e l) := by
  unfold Machine.startCopy; dsimp only
  refine Keeps.handOver (Keeps.slots ?_ _) _
  refine Keeps.modLine (Keeps.modHold ?_ _ _) _ _ _
  split
  next hr =>
    have hr' : p.tracker.length < Config.trackerDepth := by simpa using hr
    exact ⟨fun f => ⟨(h.1 f).1, (h.1 f).2.1, by simpa using hr'⟩, h.2⟩
  · exact Keeps.raiseEvent (Keeps.modChan h _ _) _

theorem Keeps.assignSlot {p0 p q : Part} (h : Keeps p0 p) (hq : assignSlot p = some q) : Keeps p0 q := by
  unfold Machine.assignSlot at hq
  split at hq
  · split at hq
    · rw [Option.map_eq_some_iff] at hq
      obtain ⟨l, -, rfl⟩ := hq
      exact Keeps.startCopy h _ _ l
    · cases hq
  · cases hq

theorem Keeps.lineRecorded {p0 p : Part} (h : Keeps p0 p) (e : HoldEntry) (l : Addr) (n : Seq) : Keeps p0 (lineRecorded p e l n) := by
  unfold Machine.lineRecorded; dsimp only
  refine Keeps.modChan ?_ _ _
  split
  · exact Keeps.modLine h _ _ _
  · exact Keeps.trackRecord (Keeps.modLine h _ _ _) _ _

theorem Keeps.offerImage {p0 p : Part} (h : Keeps p0 p) (t : Tag) (l : Addr) (image : List Byte) :
    Keeps p0 (offerImage p t l image) := by
  unfold Machine.offerImage
  split
  · exact h
  next e _ =>
    have hp := Keeps.placeUndo h (undoRequest e l image)
    split
    next p1 n heq => rw [heq] at hp; exact Keeps.lineRecorded hp e l n
    next p1 heq =>
      rw [heq] at hp
      split
      · exact Keeps.modLine (Keeps.untrackLine hp l) _ _ _
      · exact Keeps.modLine hp _ _ _

theorem Keeps.settleEntry {p0 p : Part} (h : Keeps p0 p) (t : Tag) : Keeps p0 (settleEntry p t) :=
  Keeps.expireLate (Keeps.modHold h _ _) _

theorem Keeps.offerHeld {p0 p : Part} (h : Keeps p0 p) (e : HoldEntry) : Keeps p0 (offerHeld p e) :=
  Keeps.foldl (fun _ l hq => by split; exacts [Keeps.offerImage hq _ _ _, hq]) _ h

theorem Keeps.copiesTested {p0 p : Part} (h : Keeps p0 p) (t : Tag) : Keeps p0 (copiesTested p t) := by
  unfold Machine.copiesTested
  repeat' split
  all_goals first
    | exact Keeps.dismiss h _ _
    | exact Keeps.settleEntry (Keeps.offerHeld h _) _
    | exact h

theorem Keeps.discardCopy {p0 p : Part} (h : Keeps p0 p) (l : Addr) : Keeps p0 (discardCopy p l) :=
  Keeps.of_le h le_rfl le_rfl (by simpa [Machine.discardCopy] using List.length_filter_le _ _) (.refl _) rfl rfl rfl

theorem Keeps.freeSlot {p0 p : Part} (h : Keeps p0 p) (k : Fin 4) : Keeps p0 (freeSlot p k) := h

theorem Keeps.copyDone {p0 p : Part} (h : Keeps p0 p) (k : Fin 4) (d : List Byte) : Keeps p0 (copyDone p k d) := by
  unfold Machine.copyDone
  repeat' split
  all_goals first
    | exact Keeps.discardCopy (Keeps.freeSlot h k) _
    | exact Keeps.copiesTested (Keeps.offerImage (Keeps.freeSlot h k) _ _ _) _
    | exact h

theorem Keeps.copyFailed {p0 p : Part} (h : Keeps p0 p) (k : Fin 4) : Keeps p0 (copyFailed p k) := by
  unfold Machine.copyFailed; dsimp only
  repeat' split
  all_goals first
    | exact Keeps.discardCopy (Keeps.raiseEvent (Keeps.freeSlot h k) _) _
    | exact Keeps.copiesTested (Keeps.modHold (Keeps.modLine (Keeps.untrackLine
        (Keeps.raiseEvent (Keeps.freeSlot h k) _) _) _ _ _) _ _) _
    | exact h

theorem Keeps.heldAnswered {p0 p : Part} (h : Keeps p0 p) (t : Tag) (code : RespCode) (d : List Byte) :
    Keeps p0 (heldAnswered p t code d) := by
  unfold Machine.heldAnswered; dsimp only
  split
  · exact Keeps.respond h _ _ _
  · split
    · exact Keeps.uncountOutstanding (Keeps.leaveHold (Keeps.respond h _ _ _) _) _
    · exact Keeps.leaveHold (Keeps.respond h _ _ _) _

/-! ### The epoch controller (Epoch) -/

theorem Keeps.closeEpoch {p0 p : Part} (h : Keeps p0 p) (c : Chan) (o : EpochOutcome) (f : Bool) :
    Keeps p0 (closeEpoch p c o f) :=
  Keeps.modChan (Keeps.sweep (Keeps.clearMasks (Keeps.untrackChannel h c) c)) c _

theorem Keeps.epochEnd {p0 p : Part} (h : Keeps p0 p) (c : Chan) (o : EpochOutcome) (f : Bool) (code : RespCode)
    (r : MarkerReason) : Keeps p0 (epochEnd p c o f code r) := by
  unfold Machine.epochEnd; dsimp only
  have h1 := Keeps.closeEpoch h c o f
  split
  · exact Keeps.releaseEpoch h1 c
  · exact Keeps.respond (Keeps.releaseEpoch (Keeps.settleMarker h1 c _ _) c) _ _ _

theorem Keeps.commitEnd {p0 p : Part} (h : Keeps p0 p) (c : Chan) : Keeps p0 (commitEnd p c) := by
  unfold Machine.commitEnd; dsimp only
  have h1 := fun r => Keeps.epochEnd h c .committed false .done r
  split
  · exact Keeps.raiseEvent (Keeps.raiseEvent (h1 _) _) _
  · exact Keeps.raiseEvent (h1 _) _

theorem Keeps.commitPlaced {p0 p : Part} (h : Keeps p0 p) (c : Chan) (n : Seq) : Keeps p0 (commitPlaced p c n) := h

theorem Keeps.queueControl {p0 p : Part} (h : Keeps p0 p) (r : PlaceReq) : Keeps p0 (queueControl p r) := h

theorem Keeps.commitAsks {p0 p : Part} (h : Keeps p0 p) (c : Chan) : Keeps p0 (commitAsks p c) := by
  have hp := Keeps.place h (commitRequest p c)
  unfold Machine.commitAsks
  split
  · exact Keeps.commitEnd h c
  · split
    next heq => rw [heq] at hp; exact hp
    next heq => rw [heq] at hp; split <;> exact hp

theorem Keeps.giveUp {p0 p : Part} (h : Keeps p0 p) (c : Chan) : Keeps p0 (giveUp p c) := by
  unfold Machine.giveUp; dsimp only
  refine Keeps.releaseEpoch ?_ c
  have h1 := Keeps.raiseEvent (Keeps.answerMarker h c .refused .deadline) .holdExpired
  exact h1

theorem Keeps.turnDown {p0 p : Part} (h : Keeps p0 p) (r : Request) (c : Chan) (a : MarkerAction) (code : RespCode)
    (why : MarkerReason) : Keeps p0 (turnDown p r c a code why) :=
  Keeps.respond (p := recordMarker p c a code.asResult why) h _ _ _

theorem Keeps.takeCommit {p0 p : Part} (h : Keeps p0 p) (r : Request) (c : Chan) : Keeps p0 (takeCommit p r c) := h

theorem Keeps.takeAbort {p0 p : Part} (h : Keeps p0 p) (r : Request) (c : Chan) : Keeps p0 (takeAbort p r c) := h

theorem Keeps.markerChecked {p0 p : Part} (h : Keeps p0 p) (r : Request) (c : Chan) : Keeps p0 (markerChecked p r c) := by
  unfold Machine.markerChecked; dsimp only
  split
  · exact Keeps.turnDown h _ _ _ _ _
  · split
    · exact Keeps.turnDown h _ _ _ _ _
    · split
      · exact Keeps.turnDown h _ _ _ _ _
      · split
        · exact Keeps.turnDown h _ _ _ _ _
        · split
          · exact Keeps.turnDown h _ _ _ _ _
          · split <;> exact h

/-! ### Rollback (Rollback) -/

theorem Keeps.drainEntry {p0 p : Part} (h : Keeps p0 p) (e : HoldEntry) : Keeps p0 (drainEntry p e) := by
  unfold Machine.drainEntry
  split
  all_goals first
    | exact Keeps.dismiss h _ _
    | exact Keeps.copiesTested (Keeps.discardHeld h _) _
    | exact h

theorem Keeps.serveAbort {p0 p : Part} (h : Keeps p0 p) (c : Chan) (rest : List Chan) : Keeps p0 (serveAbort p c rest) := by
  unfold Machine.serveAbort; dsimp only
  refine Keeps.foldl (fun _ e hq => Keeps.drainEntry hq e) _ (Keeps.setSubstate ?_ c .draining)
  exact h

theorem Keeps.abortStep {p0 p q : Part} (h : Keeps p0 p) (hq : abortStep p = some q) : Keeps p0 q := by
  unfold Machine.abortStep at hq
  split at hq
  · split at hq
    · cases hq; exact Keeps.serveAbort h _ _
    · cases hq
  · cases hq

theorem Keeps.rollbackFault {p0 p : Part} (h : Keeps p0 p) : Keeps p0 (rollbackFault p) :=
  Keeps.raiseEvent (Keeps.modRollback h _) _

theorem Keeps.skipLine {p0 p : Part} (h : Keeps p0 p) : Keeps p0 (skipLine p) := by
  unfold Machine.skipLine
  refine Keeps.rollbackFault ?_
  exact h

theorem Keeps.abortPlaced {p0 p : Part} (h : Keeps p0 p) (n : Seq) : Keeps p0 (abortPlaced p n) := h

theorem Keeps.enterRecording {p0 p : Part} (h : Keeps p0 p) (x : Rollback) : Keeps p0 (enterRecording p x) := by
  unfold Machine.enterRecording; dsimp only
  have h2 : Keeps p0 (Machine.setSubstate (Machine.clearCursor
      (Machine.modRollback p fun y => { y with phase := .recording, stage := .idle })) x.channel .recording) := h
  generalize Machine.setSubstate (Machine.clearCursor
      (Machine.modRollback p fun y => { y with phase := .recording, stage := .idle })) x.channel .recording = p2 at h2
  have hp := Keeps.place h2 (abortRequest p2 x)
  split
  next heq => rw [heq] at hp; exact hp
  next heq => rw [heq] at hp; split <;> exact hp

theorem Keeps.walkExhausted {p0 p : Part} (h : Keeps p0 p) (x : Rollback) : Keeps p0 (walkExhausted p x) := by
  unfold Machine.walkExhausted
  split
  · exact Keeps.enterRecording (Keeps.rollbackFault h) _
  · exact Keeps.enterRecording h _

theorem Keeps.walkTo {p0 p : Part} (h : Keeps p0 p) (seg slot : Nat) (n : Option Seq) : Keeps p0 (walkTo p seg slot n) := h

theorem Keeps.walkFrom {p0 p : Part} (h : Keeps p0 p) (x : Rollback) (segs : List WalkSegment) : Keeps p0 (walkFrom p x segs) := by
  unfold Machine.walkFrom; dsimp only
  split
  · exact Keeps.walkExhausted (Keeps.modRollback h _) _
  · exact h

theorem Keeps.nextSegment {p0 p : Part} (h : Keeps p0 p) (x : Rollback) : Keeps p0 (nextSegment p x) := Keeps.walkFrom h _ _

theorem Keeps.abandonSegment {p0 p : Part} (h : Keeps p0 p) (x : Rollback) : Keeps p0 (abandonSegment p x) :=
  Keeps.nextSegment (Keeps.rollbackFault h) _

theorem Keeps.stepBack {p0 p : Part} (h : Keeps p0 p) (x : Rollback) (slot : Nat) (w : HeaderSlot) : Keeps p0 (stepBack p x slot w) := by
  unfold Machine.stepBack
  repeat' split
  all_goals first
    | exact Keeps.enterRecording h _
    | exact Keeps.walkExhausted h _
    | exact Keeps.nextSegment h _
    | exact Keeps.abandonSegment h _
    | exact h

theorem Keeps.walkHeader {p0 p : Part} (h : Keeps p0 p) (x : Rollback) (w : HeaderSlot) : Keeps p0 (walkHeader p x w) := by
  unfold Machine.walkHeader; dsimp only
  repeat' split
  all_goals first
    | exact Keeps.stepBack h _ _ _
    | exact Keeps.abandonSegment h _
    | exact Keeps.walkExhausted h _
    | exact h

theorem Keeps.walkPayload {p0 p : Part} (h : Keeps p0 p) (x : Rollback) (slot : Nat) (w : HeaderSlot) (ps : List Piece) :
    Keeps p0 (walkPayload p x slot w ps) := by
  unfold Machine.walkPayload; dsimp only
  split
  · exact Keeps.stepBack (Keeps.skipLine (Keeps.modRollback h _)) _ _ _
  · exact h

theorem Keeps.walkIdle {p0 p : Part} (h : Keeps p0 p) : Keeps p0 (walkIdle p) := h

theorem Keeps.countRestored {p0 p : Part} (h : Keeps p0 p) : Keeps p0 (countRestored p) := h

theorem Keeps.rollbackHeaderAnswered {p0 p : Part} (h : Keeps p0 p) (x : Rollback) (a : ReadAnswer) :
    Keeps p0 (rollbackHeaderAnswered p x a) := by
  unfold Machine.rollbackHeaderAnswered; dsimp only
  repeat' split
  all_goals first
    | exact Keeps.abandonSegment (Keeps.walkIdle h) _
    | exact Keeps.walkHeader (Keeps.walkIdle h) _ _
    | exact Keeps.rollbackFault (Keeps.walkIdle h)
    | exact h

theorem Keeps.rollbackPayloadAnswered {p0 p : Part} (h : Keeps p0 p) (x : Rollback) (w : HeaderSlot) (ps : List Piece) :
    Keeps p0 (rollbackPayloadAnswered p x w ps) := by
  unfold Machine.rollbackPayloadAnswered; dsimp only
  repeat' split
  all_goals first
    | exact Keeps.walkPayload (Keeps.walkIdle h) _ _ _ _
    | exact Keeps.skipLine (Keeps.walkIdle h)
    | exact h

theorem Keeps.rollbackRestoreAnswered {p0 p : Part} (h : Keeps p0 p) (x : Rollback) (w : HeaderSlot) (a : WriteAnswer) :
    Keeps p0 (rollbackRestoreAnswered p x w a) := by
  unfold Machine.rollbackRestoreAnswered; dsimp only
  have h1 := Keeps.countRestored (Keeps.walkIdle h)
  have h2 := Keeps.skipLine (Keeps.walkIdle h)
  cases a
  · dsimp only; split
    · exact Keeps.stepBack h1 _ _ _
    · exact h1
  · dsimp only; split
    · exact Keeps.stepBack h2 _ _ _
    · exact h2

theorem Keeps.rollbackEnd {p0 p : Part} (h : Keeps p0 p) (x : Rollback) : Keeps p0 (rollbackEnd p x) := by
  unfold Machine.rollbackEnd; dsimp only
  refine Keeps.raiseEvent (Keeps.epochEnd ?_ _ _ _ _ _) _
  exact h

theorem Keeps.fixStart {p0 p : Part} (h : Keeps p0 p) (x : Rollback) : Keeps p0 (fixStart p x) := h

theorem Keeps.leaveDraining {p0 p : Part} (h : Keeps p0 p) (x : Rollback) : Keeps p0 (leaveDraining p x) := by
  unfold Machine.leaveDraining; dsimp only
  have h1 := Keeps.setSubstate (Keeps.modRollback h fun y => { y with phase := .restoring }) x.channel .restoring
  generalize Machine.setSubstate (Machine.modRollback p fun y => { y with phase := .restoring }) x.channel
    .restoring = p1 at h1
  split
  · exact Keeps.rollbackEnd h _
  · split
    · exact Keeps.enterRecording h1 _
    · exact Keeps.walkFrom h1 _ _

theorem Keeps.rollbackStep {p0 p q : Part} (h : Keeps p0 p) (hq : rollbackStep p = some q) : Keeps p0 q := by
  unfold Machine.rollbackStep at hq
  repeat' split at hq
  all_goals first
    | cases hq; first
      | exact Keeps.rollbackEnd h _
      | exact Keeps.fixStart h _
      | exact Keeps.leaveDraining h _
    | cases hq

/-! ### Internal events (Settle) -/

theorem Keeps.lineTestStep {p0 p q : Part} (h : Keeps p0 p) (hq : lineTestStep p = some q) : Keeps p0 q := by
  unfold Machine.lineTestStep at hq
  repeat' split at hq
  all_goals cases hq
  · exact Keeps.proceed h _
  · exact h

theorem Keeps.controlPlaced {p0 p : Part} (h : Keeps p0 p) (r : PlaceReq) (n : Seq) : Keeps p0 (controlPlaced p r n) := by
  unfold Machine.controlPlaced; split <;> exact h

theorem Keeps.waitingStep {p0 p q : Part} (h : Keeps p0 p) (hq : waitingStep p = some q) : Keeps p0 q := by
  unfold Machine.waitingStep at hq
  split at hq
  · cases hq
  next r rest _ =>
    have hp := Keeps.place (p := { p with writer := { p.writer with waiting := rest } }) h r
    split at hq
    · split at hq
      next heq => rw [heq] at hp; cases hq; exact Keeps.controlPlaced hp r _
      next heq => rw [heq] at hp; cases hq; exact hp
    · cases hq

theorem Keeps.heldStep {p0 p q : Part} (h : Keeps p0 p) (hq : heldStep p = some q) : Keeps p0 q := by
  unfold Machine.heldStep at hq; dsimp only at hq
  repeat' split at hq
  all_goals first
    | cases hq; first
      | exact Keeps.settleEntry h _
      | exact Keeps.offerImage h _ _ _
      | exact Keeps.settleEntry (Keeps.offerImage h _ _ _) _
    | cases hq

theorem Keeps.headRetryStep {p0 p q : Part} (h : Keeps p0 p) (hq : headRetryStep p = some q) : Keeps p0 q := by
  unfold Machine.headRetryStep at hq; dsimp only at hq
  split at hq
  · split at hq
    · cases hq; exact h
    next x rest heq =>
      split at hq
      · cases hq; exact h
      · split at hq
        next p1 hp =>
          cases hq
          refine Keeps.holdTake (p := { p with
            hold := { p.hold with headRetry := false }, port := { p.port with intake := rest } }) ?_ hp
          have hl : p.port.intake = x :: rest := heq
          exact Keeps.of_le h (by simp [hl]) le_rfl le_rfl (.refl _) rfl rfl rfl
        · cases hq; exact h
  · cases hq

theorem Keeps.resumeStep {p0 p q : Part} (h : Keeps p0 p) (hq : resumeStep p = some q) : Keeps p0 q := by
  unfold Machine.resumeStep at hq
  split at hq
  next hc =>
    cases hq
    simp only [Bool.and_eq_true, beq_iff_eq] at hc
    exact Keeps.of_le h le_rfl le_rfl le_rfl (Or.inr ⟨Or.inr hc.1.1, Or.inl rfl⟩) rfl rfl rfl
  · cases hq

/-- What one internal event keeps. -/
theorem Keeps.internal {p0 p q : Part} (h : Keeps p0 p) (hq : internal p = some q) : Keeps p0 q := by
  rcases internal_cases hq with ⟨e, rfl⟩ | ⟨c, rfl⟩ | hq | hq | ⟨c, rfl⟩ | hq | hq | hq | hq | hq | hq
  · exact Keeps.forward h e
  · exact Keeps.commitEnd h c
  · exact Keeps.rollbackStep h hq
  · exact Keeps.lineTestStep h hq
  · exact Keeps.commitAsks h c
  · exact Keeps.abortStep h hq
  · exact Keeps.resumeStep h hq
  · exact Keeps.waitingStep h hq
  · exact Keeps.heldStep h hq
  · exact Keeps.headRetryStep h hq
  · exact Keeps.assignSlot h hq

theorem Keeps.settle {p0 p : Part} (h : Keeps p0 p) : Keeps p0 (settle p) :=
  settle_induct (fun _ _ hp hq => Keeps.internal hp hq) h

/-- What settling keeps. -/
theorem settle_keeps (p : Part) : Keeps p (settle p) := Keeps.settle (Keeps.refl p)

/-- A later part of a sound one is sound. -/
theorem Keeps.sound {p0 p : Part} (k : Keeps p0 p) (h : p0.Sound) : p.Sound := by
  obtain ⟨h1, h2, -, -, h5⟩ := k
  refine ⟨h1 h.1, fun hf => ?_⟩
  have hp : p.power = p0.power := congrArg (fun u => u.1.2.2.2.1) h5
  rw [hp] at hf
  rcases h2 with h3 | ⟨h3, -⟩
  · have h4 : p0.writer.state = p.writer.state := congrArg (fun u => u.1) h3
    rw [← h4]; exact h.2 hf
  · have h4 : p0.writer.state = .running ∨ p0.writer.state = .suspended := h3
    rcases h.2 hf with e | e <;> rw [e] at h4 <;> rcases h4 with h4 | h4 <;> cases h4

end Sys2Proof.Laws
end

