-- ==== Sys2Proof/Laws/Link.lean ====
section
/-! SUPPORT. What a register group does on the link, said once: where it goes, and that every row of a group is a write to
its own index. -/

namespace Sys2Proof.Laws

open Sys2Proof.Machine

/-! ### Where a group goes -/

/-- With no frame open, or on a link that ignores the clock, a group changes nothing. -/
theorem groupTaken_unframed {p : Part} {i : BitVec 7} {v : Word} {act : Part → Part}
    (h : p.link.frame = .idle ∨ p.link.frame = .ignoring) : groupTaken p i v act = p := by
  unfold groupTaken
  rcases h with h | h <;> rw [h]

/-- A group in a read frame samples the register after it and changes nothing else. -/
theorem groupTaken_read {p : Part} {i : BitVec 7} {v : Word} {act : Part → Part} {f : Frame}
    (h : p.link.frame = .frame f) (hf : f.isWrite = false) :
    groupTaken p i v act = sampledAs p (f.index + 1) (nextSample p f) := by
  unfold groupTaken
  simp [h, hf]

/-- A group of a row whose effect is a write to its own index: in a write frame it is a write to the frame's index,
whichever row carries it, and the index advances. -/
theorem groupTaken_write {p : Part} {i : BitVec 7} {v : Word} {act : Part → Part} {f : Frame}
    (h : p.link.frame = .frame f) (hf : f.isWrite = true) (ha : act p = writeRegister p i v) :
    groupTaken p i v act = { writeRegister p f.index v with
      link := { (writeRegister p f.index v).link with frame := .frame { f with index := f.index + 1 } } } := by
  have hq : (if f.index = i then act p else writeRegister p f.index v) = writeRegister p f.index v := by
    split
    next hi => rw [ha, hi]
    · rfl
  unfold groupTaken
  simp only [h, hf, if_true, hq]

/-- A link that writes the next group to an index is in a write frame there. -/
theorem writesAt_iff {l : Link} {i : BitVec 7} :
    l.writesAt i = true ↔ ∃ f, l.frame = .frame f ∧ f.isWrite = true ∧ f.index = i := by
  unfold Link.writesAt
  split <;> simp_all

/-- A group at its row's own index whose effect leaves the link alone: the effect, and the index advanced. -/
theorem groupTaken_eq {p : Part} {i : BitVec 7} {v : Word} {act : Part → Part} (h : p.link.writesAt i = true)
    (ha : (act p).link = p.link) : groupTaken p i v act = { act p with link := p.link.afterGroup } := by
  obtain ⟨f, hl, hf, rfl⟩ := writesAt_iff.1 h
  unfold groupTaken Link.afterGroup
  simp [hl, hf, ha]

/-! ### Every row of a group is a write to its own index -/

theorem writeRegister_region (p : Part) (r : RegionReg) (v : Word) :
    writeRegister p (regionRegIndex r) v = writeRegion p r v := by
  cases r <;> rfl

theorem writeRegister_config (p : Part) (r : ConfigReg) (v : Word) :
    writeRegister p (configRegIndex r) v = writeConfigGroup p r v := by
  cases r with
  | channelControl c =>
    have h : c = 0 ∨ c = 1 ∨ c = 2 ∨ c = 3 := by revert c; decide
    rcases h with rfl | rfl | rfl | rfl <;> rfl
  | _ => rfl

theorem writeRegister_markerCode (p : Part) (c : Chan) (v : Word) :
    writeRegister p (markerCodeIndex c) v = writeMarkerCode p c v := by
  have h : c = 0 ∨ c = 1 ∨ c = 2 ∨ c = 3 := by revert c; decide
  rcases h with rfl | rfl | rfl | rfl <;> rfl

/-- The code field of a written command. -/
theorem field_commandValue_code (code operand : Nat) (h : code < 8) : field (commandValue code operand) 0 3 = code := by
  simp only [field, commandValue, packed, packFields, BitVec.toNat_ofNat]
  omega

/-- The operand field of a written command. -/
theorem field_commandValue_operand (code operand : Nat) (h : operand < 64) :
    field (commandValue code operand) 3 6 = operand := by
  simp only [field, commandValue, packed, packFields, BitVec.toNat_ofNat]
  omega

/-- A command's effect is that of its code and operand written to COMMAND. -/
theorem commandWritten_commandValue (p : Part) (n : Fin 64) :
    commandWritten p (commandValue 1 0) = unlessBusy p .recover judgeRecover ∧
      commandWritten p (commandValue 2 0) = unlessBusy p .format judgeFormat ∧
      commandWritten p (commandValue 3 0) = unlessBusy p .start judgeStart ∧
      commandWritten p (commandValue 4 0) = unlessBusy p .stop judgeStop ∧
      commandWritten p (commandValue 5 n.val) = unlessBusy p .returnSegment (fun q => judgeReturn q n.val) ∧
      commandWritten p (commandValue 6 0) = softResetTaken p := by
  refine ⟨?_, ?_, ?_, ?_, ?_, ?_⟩ <;> unfold commandWritten <;> rw [field_commandValue_code _ _ (by decide)]
  case refine_5 =>
    show unlessBusy p .returnSegment (fun q => judgeReturn q (field (commandValue 5 n.val) 3 6)) = _
    rw [field_commandValue_operand _ _ n.isLt]
  all_goals rfl

end Sys2Proof.Laws
end

