-- ==== Sys2Proof/Laws/Power.lean ====
section
/-! SUPPORT. What a freeze and the start of a drain do, said once. -/

namespace Sys2Proof.Laws

open Sys2Proof.Machine

/-- The part at the moment a freeze is taken (R109, R161). -/
def freezing (p : Part) : Part :=
  freezeWriter (raiseEvent { p with power := { p.power with frozen := true } } .pfailFrozen)

theorem Keeps.freezeEntry {p0 p : Part} (h : Keeps p0 p) (e : HoldEntry) : Keeps p0 (freezeEntry p e) := by
  unfold Machine.freezeEntry
  repeat' split
  all_goals first
    | exact Keeps.dismiss h _ _
    | exact Keeps.discardHeld h _
    | exact h

/-- The freeze raises PFAIL_FROZEN. -/
theorem freezing_raises (p : Part) : eventSet (freezing p) .pfailFrozen = true := eventSet_raiseEvent_self _ _

/-- Once the freeze is taken the rest is internal work. -/
theorem freezeBlocks_keeps (p : Part) : Keeps (freezing p) (settle (freezeBlocks p)) := by
  refine Keeps.settle ?_
  unfold Machine.freezeBlocks
  exact Keeps.foldl (fun _ e hq => Keeps.freezeEntry hq e) _
    (Keeps.answerAll (Keeps.answerMarkers (Keeps.refl _) _ _ _) _ _ _)

/-- A freeze that is taken: the indication and PFAIL_FROZEN are set, the writer is FROZEN or stays HALTED, responses sent
stay sent, and configuration, link, command slot, time and what memory owes stay as they were. -/
theorem takeFreeze_spec {p : Part} (h : p.power.frozen = false) :
    ∃ q : Part, takeFreeze p = q ∧ q.power = { p.power with frozen := true } ∧ eventSet q .pfailFrozen = true ∧
      q.writer.state = (if p.writer.state = .halted then .halted else .frozen) ∧ q.events.enables = p.events.enables ∧
      q.classifier = p.classifier ∧ q.link = p.link ∧ q.command = p.command ∧ q.now = p.now ∧
      q.arbiter.issued = p.arbiter.issued ∧ q.restore.recovery = p.restore.recovery ∧
      p.port.responses <+: q.port.responses := by
  refine ⟨_, rfl, ?_⟩
  have ht : takeFreeze p = settle (freezeBlocks p) := by simp [takeFreeze, h]
  rw [ht]
  obtain ⟨-, kw, ke, kr, ku⟩ := freezeBlocks_keeps p
  simp only [untouched, Prod.mk.injEq] at ku
  obtain ⟨⟨u1, u2, u3, u4, u5⟩, ⟨-, -, -, u6, u7, -⟩, u8, -⟩ := ku
  have hs : (freezing p).writer.state = if p.writer.state = .halted then .halted else .frozen := by
    simp [freezing, freezeWriter]
  refine ⟨u4, ?_, ?_, u7, u1, u2, u3, u5, u6, u8, kr⟩
  · rw [eventSet_eq]
    exact ke _ (by rw [← eventSet_eq]; exact freezing_raises p)
  · rcases kw with kw | ⟨kw, -⟩
    · simp only [standing, Prod.mk.injEq] at kw
      rw [← hs, kw.1]
    · have : (freezing p).writer.state = .running ∨ (freezing p).writer.state = .suspended := kw
      rw [hs] at this
      split at this <;> simp at this

/-- The part at the moment SOFT_RESET becomes the busy command (R178). -/
def drainBegins (p : Part) : Part := { p with command := { p.command with busy := .softReset } }

/-- The drain answers the intake queue in queue order and changes nothing else of the port but its tags (R160). -/
theorem drainIntake_port (p : Part) : ∃ tags, drainIntake p = { p with
    port := { p.port with
      tags := tags, intake := [],
      responses := p.port.responses ++ p.port.intake.map fun x => { tag := x.req.tag, code := .refused, data := [] } } } := by
  have go : ∀ (l : List IntakeEntry) (q : Part), ∃ tags, l.foldl (fun q e => respond q e.req.tag .refused []) q =
      { q with port := { q.port with
        tags := tags,
        responses := q.port.responses ++ l.map fun x => { tag := x.req.tag, code := .refused, data := [] } } } := by
    intro l
    induction l with
    | nil => intro q; exact ⟨q.port.tags, by simp⟩
    | cons x l ih =>
      intro q
      obtain ⟨tags, ht⟩ := ih (respond q x.req.tag .refused [])
      exact ⟨tags, by rw [List.foldl_cons, ht]; simp [respond]⟩
  obtain ⟨tags, ht⟩ := go p.port.intake { p with port := { p.port with intake := [] } }
  exact ⟨tags, ht⟩

/-- After the intake queue has been answered the rest of the drain's start is internal work. -/
theorem drainBlocks_keeps (p : Part) : Keeps (drainIntake (drainBegins p)) (settle (drainBlocks p)) := by
  refine Keeps.settle ?_
  unfold Machine.drainBlocks
  refine Keeps.answerAll (Keeps.answerMarkers ?_ _ _ _) _ _ _
  refine Keeps.writer ?_ _ rfl rfl
  exact Keeps.foldl (fun _ e hq => Keeps.dismiss hq e _) _ (Keeps.refl _)

end Sys2Proof.Laws
end

