-- ==== Sys2Proof/Laws/Recovery.lean ====
section
/-! SUPPORT. What recovery's operations over the four channels do, said once, as one record. -/

namespace Sys2Proof.Laws

open Sys2Proof.Machine

/-- Two changes of one item of a list are one. -/
theorem modify_modify {α : Type} (l : List α) (s : Nat) (f g : α → α) : (l.modify s f).modify s g = l.modify s (g ∘ f) := by
  apply List.ext_getElem?
  intro i
  simp only [List.getElem?_modify]
  split <;> simp
  rfl

/-- The header bounds of the four channels are taken in turn (R134). -/
theorem foldl_modChannelScan (p : Part) (f : Chan → ChannelScan → ChannelScan) :
    (allChannels.foldl (fun q c => modChannelScan q c (f c)) p) =
      { p with restore := { p.restore with tables := { p.restore.tables with
        channels := p.restore.tables.channels.mapFinIdx fun i x h => f ⟨i, h⟩ x } } } := by
  simp only [allChannels, List.foldl_cons, List.foldl_nil, modChannelScan]
  congr 3
  apply Vector.ext
  intro i hi
  simp [setAt, getAt]
  rcases (by omega : i = 0 ∨ i = 1 ∨ i = 2 ∨ i = 3) with rfl | rfl | rfl | rfl <;> simp

/-- The channels are given their epochs (R21, R139). -/
theorem assignChannels_eq (p : Part) (r : Chan → Epoch) :
    assignChannels p r = { p with
      channels := p.channels.mapFinIdx fun i ch h => assignChannel ch (r ⟨i, h⟩) } := by
  simp only [assignChannels, allChannels, List.foldl_cons, List.foldl_nil, modChan]
  congr 1
  apply Vector.ext
  intro i hi
  simp [setAt, chan, getAt]
  rcases (by omega : i = 0 ∨ i = 1 ∨ i = 2 ∨ i = 3) with rfl | rfl | rfl | rfl <;> simp

end Sys2Proof.Laws
end

