-- ==== Sys2Proof/Laws/Registers.lean ====
section
/-! SUPPORT. The fields of a register: what a register packed from fields shows in each of them, and what a channel's five
registers show. -/

namespace Sys2Proof.Laws

open Sys2Proof.Machine

/-- A bit of a value and what stands above it. -/
theorem testBit_pack (v w N i : Nat) : (v % 2 ^ w + 2 ^ w * N).testBit i =
    if i < w then v.testBit i else N.testBit (i - w) := by
  rw [Nat.add_comm, Nat.testBit_two_pow_mul_add _ (Nat.mod_lt _ (Nat.two_pow_pos w))]
  split
  next h => rw [Nat.testBit_mod_two_pow]; simp [h]
  · rfl

/-- The first field of a register. -/
theorem packed_head (w v : Nat) (fs : List (Nat × Nat)) (hw : w ≤ 32) :
    (packed ((w, v) :: fs)).extractLsb' 0 w = BitVec.ofNat w v := by
  apply BitVec.eq_of_getLsbD_eq
  intro i hi
  have : i < 32 := by omega
  rw [BitVec.getLsbD_extractLsb', packed, BitVec.getLsbD_ofNat, BitVec.getLsbD_ofNat, packFields, testBit_pack]
  simp [hi, this]

/-- A later field of a register. -/
theorem packed_tail (w v lo len : Nat) (fs : List (Nat × Nat)) (h : w ≤ lo) (h2 : lo + len ≤ 32) :
    (packed ((w, v) :: fs)).extractLsb' lo len = (packed fs).extractLsb' (lo - w) len := by
  apply BitVec.eq_of_getLsbD_eq
  intro i hi
  have h3 : lo + i < 32 := by omega
  have h4 : ¬ lo + i < w := by omega
  have h5 : lo - w + i < 32 := by omega
  have h6 : lo + i - w = lo - w + i := by omega
  rw [BitVec.getLsbD_extractLsb', BitVec.getLsbD_extractLsb', packed, packed,
    BitVec.getLsbD_ofNat, BitVec.getLsbD_ofNat, packFields, testBit_pack]
  simp [hi, h3, h4, h5, h6]

/-- Above the last field a register reads as 0. -/
theorem packed_nil (lo len : Nat) : (packed []).extractLsb' lo len = 0 := by
  apply BitVec.eq_of_getLsbD_eq
  intro i hi
  simp [packed, packFields]

set_option maxHeartbeats 1000000 in
/-- The five registers of a channel (R184). -/
theorem readRegister_channel (p : Part) (c : Chan) :
    readRegister p (0x28 + 5 * BitVec.ofNat 7 c.val) = channelRegister (chan p c) 0 ∧
      readRegister p (0x29 + 5 * BitVec.ofNat 7 c.val) = channelRegister (chan p c) 1 ∧
      readRegister p (0x2A + 5 * BitVec.ofNat 7 c.val) = channelRegister (chan p c) 2 ∧
      readRegister p (0x2B + 5 * BitVec.ofNat 7 c.val) = channelRegister (chan p c) 3 ∧
      readRegister p (0x2C + 5 * BitVec.ofNat 7 c.val) = channelRegister (chan p c) 4 := by
  have h : c = 0 ∨ c = 1 ∨ c = 2 ∨ c = 3 := by revert c; decide
  rcases h with rfl | rfl | rfl | rfl <;> simp [readRegister]
  exact ⟨rfl, rfl, rfl, rfl, rfl⟩

end Sys2Proof.Laws
end

