-- ==== Sys2Proof/Laws/Rollback.lean ====
section
/-! SUPPORT. What the drain of a rollback does with the hold queue, as one record, and what its walk list holds. -/

namespace Sys2Proof.Laws

open Sys2Proof.Machine

/-! ### The drain -/

/-- The entries that the drain of an abort answers REFUSED at once (R115, R116). -/
def drainedOut (e : HoldEntry) : Bool :=
  match e.state with
  | .waitLine | .waitCopy | .waitSpace | .recording => true
  | .copying => !(e.lines.any fun l => l.sub == .copying)
  | .waitEpoch | .forwarding => false

/-- The entries that wait for their copy reads in flight (R116). -/
def drainedLater (e : HoldEntry) : Bool := e.state == .copying && e.lines.any fun l => l.sub == .copying

/-- The one element of a list with a property is found. -/
theorem find?_unique {α : Type} {P : α → Bool} {l : List α} {a : α} (ha : a ∈ l) (hp : P a = true)
    (hu : ∀ x ∈ l, P x = true → x = a) : l.find? P = some a := by
  cases h : l.find? P with
  | none => exact absurd hp (by simpa using List.find?_eq_none.mp h a ha)
  | some x => rw [hu x (List.mem_of_find?_eq_some h) (List.find?_some h)]

/-- Giving up images leaves the copy reads in flight. -/
theorem any_copying_unheld (e : HoldEntry) :
    ((unheld e).lines.any fun l => l.sub == .copying) = e.lines.any fun l => l.sub == .copying := by
  simp only [unheld, List.any_map]
  congr 1
  funext l
  cases h : l.sub <;> simp [Function.comp, HoldLine.isHeld, h]

/-- No image is left to give up. -/
theorem any_held_unheld (e : HoldEntry) (line : Addr) :
    ((unheld e).lines.any fun l => l.isHeld && l.line == line) = false := by
  simp only [unheld, List.any_map, List.any_eq_false]
  intro l _
  cases h : l.sub <;> simp [Function.comp, HoldLine.isHeld, h]

/-- An entry that gives up its images and then leaves has left. -/
theorem dismiss_discardHeld (p : Part) (e : HoldEntry) (code : RespCode) :
    dismiss (discardHeld p e) (unheld e) code = dismiss p e code := by
  have h : (discardHeld p e).hold.queue.filter (fun x => x.req.tag != e.req.tag) =
      p.hold.queue.filter fun x => x.req.tag != e.req.tag := by
    simp only [discardHeld, foldl_untrackLine, modHold]
    exact filter_changed _ _ fun _ => rfl
  rw [dismiss_eq, dismiss_eq]
  simp only [any_held_unheld, Bool.not_false, unheld_req, h]
  simp [discardHeld, foldl_untrackLine, modHold, List.any_filter]

/-- The entry of a tag after entries have left and others have given up their images. -/
theorem holdEntry_afterDismissal {p : Part} {gone kept : List HoldEntry} {e : HoldEntry} {code : RespCode}
    (hn : (p.hold.queue.map fun x => x.req.tag).Nodup) (he : e ∈ p.hold.queue)
    (hg : ∀ x ∈ gone, x.req.tag ≠ e.req.tag) (hk : e ∈ kept) :
    holdEntry (afterDismissal p gone kept code) e.req.tag = some (unheld e) := by
  have hf : ((p.hold.queue.filter fun x => !(gone.any fun e => e.req.tag == x.req.tag)).find? fun x =>
      x.req.tag == e.req.tag) = some e := by
    refine find?_unique (List.mem_filter.mpr ⟨he, by simpa using hg⟩) (by simp) fun x hx ht => ?_
    exact List.inj_on_of_nodup_map hn (List.mem_of_mem_filter hx) he (by simpa using ht)
  have hc : ((fun x => x.req.tag == e.req.tag) ∘ fun x =>
      if kept.any (fun e => e.req.tag == x.req.tag) then unheld x else x) = fun x => x.req.tag == e.req.tag := by
    funext x
    simp only [Function.comp_apply]
    split <;> rfl
  have hka : (kept.any fun x => x.req.tag == e.req.tag) = true := List.any_eq_true.mpr ⟨e, hk, by simp⟩
  simp only [holdEntry, afterDismissal, List.find?_map, hc, hf, Option.map_some, hka, if_true]

/-- What the drain of an abort does with write entries of its epoch (R115, R116). -/
theorem drainEntries_eq (p : Part) (es : List HoldEntry) (hn : (p.hold.queue.map fun x => x.req.tag).Nodup)
    (hs : es.Sublist p.hold.queue) (hf : p.power.frozen = false)
    (hw : ∀ e ∈ es, e.state = .copying → withheld p e = true) :
    es.foldl drainEntry p = afterDismissal p (es.filter drainedOut) (es.filter drainedLater) .refused := by
  have hes : (es.map fun x => x.req.tag).Nodup := hn.sublist (hs.map _)
  have go : ∀ (l gone kept : List HoldEntry), (l.map fun x => x.req.tag).Nodup → (∀ e ∈ l, e ∈ es) →
      (∀ e ∈ l, ∀ x ∈ gone, x.req.tag ≠ e.req.tag) →
      l.foldl drainEntry (afterDismissal p gone kept .refused) =
        afterDismissal p (gone ++ l.filter drainedOut) (kept ++ l.filter drainedLater) .refused := by
    intro l
    induction l with
    | nil => intro gone kept _ _ _; simp
    | cons e l ih =>
      intro gone kept hl hm hg
      have hd := dismiss_afterDismissal p gone kept e .refused
      have hk := discardHeld_afterDismissal p gone kept e .refused
      have hq : e ∈ p.hold.queue := hs.mem (hm e (List.mem_cons_self ..))
      have he := holdEntry_afterDismissal (code := .refused) hn hq (hg e (List.mem_cons_self ..))
        (List.mem_append_right kept (List.mem_singleton_self e))
      have : drainEntry (afterDismissal p gone kept .refused) e =
          afterDismissal p (gone ++ [e].filter drainedOut) (kept ++ [e].filter drainedLater) .refused := by
        unfold drainEntry
        cases hst : e.state
        case copying =>
          have hwu : withheld (afterDismissal p gone (kept ++ [e]) .refused) (unheld e) = true :=
            hw e (hm e (List.mem_cons_self ..)) hst
          have hfu : (afterDismissal p gone (kept ++ [e]) .refused).power.frozen = false := hf
          dsimp only
          rw [hk, copiesTested, he]
          simp only [any_copying_unheld, hwu, hfu]
          cases ha : e.lines.any fun l => l.sub == .copying
          · simp only [Bool.false_eq_true, if_false, Bool.not_false, Bool.and_self, if_true]
            rw [← hk, dismiss_discardHeld, hd]
            simp [drainedOut, drainedLater, hst, ha]
          · simp [drainedOut, drainedLater, hst, ha]
        all_goals simp [drainedOut, drainedLater, hst, hd]
      rw [List.map_cons, List.nodup_cons] at hl
      rw [List.foldl_cons, this, ih _ _ hl.2 fun x hx => hm x (List.mem_cons_of_mem _ hx),
        List.append_assoc, List.append_assoc, ← List.filter_append, ← List.filter_append]
      · rfl
      · intro x hx y hy
        rcases List.mem_append.mp hy with hy | hy
        · exact hg x (List.mem_cons_of_mem _ hx) y hy
        · have hye : y = e := by simpa using List.mem_of_mem_filter hy
          subst hye
          exact fun h => hl.1 (h ▸ List.mem_map_of_mem hx)
  simpa [afterDismissal_nil] using go es [] [] hes (fun _ h => h) (by simp)

/-! ### The walk list -/

/-- Inserting adds one segment. -/
theorem insertWalk_perm (s : WalkSegment) (l : List WalkSegment) : (insertWalk s l).Perm (s :: l) := by
  induction l with
  | nil => exact List.Perm.refl _
  | cons x xs ih =>
    unfold insertWalk
    split
    · exact List.Perm.refl _
    · exact (ih.cons x).trans (List.Perm.swap s x xs)

/-- Inserting keeps the descending order. -/
theorem insertWalk_descends (s : WalkSegment) {l : List WalkSegment} (h : l.Pairwise fun a b => b.first ≤ a.first) :
    (insertWalk s l).Pairwise fun a b => b.first ≤ a.first := by
  induction l with
  | nil => exact List.pairwise_singleton _ _
  | cons x xs ih =>
    obtain ⟨h1, h2⟩ := List.pairwise_cons.mp h
    unfold insertWalk
    split
    next hs =>
      refine List.pairwise_cons.mpr ⟨fun y hy => ?_, h⟩
      rcases List.mem_cons.mp hy with rfl | hy
      · exact Nat.le_of_lt hs
      · exact Nat.le_trans (h1 y hy) (Nat.le_of_lt hs)
    next hs =>
      refine List.pairwise_cons.mpr ⟨fun y hy => ?_, ih h2⟩
      rcases List.mem_cons.mp ((insertWalk_perm s xs).mem_iff.mp hy) with rfl | hy
      · exact Nat.le_of_not_lt hs
      · exact h1 y hy

/-- The walk list holds the walk segments of the table, each once, by descending first number (R118). -/
theorem walkList_spec (p : Part) (c : Chan) (s : Seq) :
    (walkList p c s).Perm ((p.writer.table.mapIdx fun i e => walkSegment c s i e).filterMap id) ∧
      (walkList p c s).Pairwise fun a b => b.first ≤ a.first := by
  have go : ∀ (l : List (Option WalkSegment)) (acc : List WalkSegment), acc.Pairwise (fun a b => b.first ≤ a.first) →
      (l.foldl (fun acc x => match x with | none => acc | some w => insertWalk w acc) acc).Perm (l.filterMap id ++ acc) ∧
        (l.foldl (fun acc x => match x with | none => acc | some w => insertWalk w acc) acc).Pairwise
          fun a b => b.first ≤ a.first := by
    intro l
    induction l with
    | nil => exact fun acc h => ⟨List.Perm.refl _, h⟩
    | cons x l ih =>
      intro acc h
      cases x with
      | none => exact ih acc h
      | some w =>
        obtain ⟨h1, h2⟩ := ih (insertWalk w acc) (insertWalk_descends w h)
        refine ⟨h1.trans ?_, h2⟩
        exact ((insertWalk_perm w acc).append_left _).trans List.perm_middle
  have h := go (p.writer.table.mapIdx fun i e => walkSegment c s i e) [] List.Pairwise.nil
  rw [List.append_nil] at h
  exact h

end Sys2Proof.Laws
end

