-- ==== Sys2Proof/Laws/Sound.lean ====
section
/-! SUPPORT. Freeze, resets, drain, recovery, the command slot and the register window keep a part sound: one lemma per
operation. -/

namespace Sys2Proof.Laws

open Sys2Proof.Machine

/-- A fold of steps that each keep a part sound. -/
theorem Sound.foldl {α : Type} {f : Part → α → Part} (hf : ∀ q a, q.Sound → (f q a).Sound) (l : List α) :
    ∀ {p : Part}, p.Sound → (l.foldl f p).Sound := by
  induction l with
  | nil => exact fun h => h
  | cons a l ih => exact fun h => ih (hf _ a h)

theorem Sound.raiseEvent {p : Part} (h : p.Sound) (e : Event) : (raiseEvent p e).Sound := h

theorem Sound.modChan {p : Part} (h : p.Sound) (c : Chan) (f : Channel → Channel) : (modChan p c f).Sound := h

theorem Sound.respond {p : Part} (h : p.Sound) (t : Tag) (code : RespCode) (d : List Byte) :
    (respond p t code d).Sound := h

theorem Sound.freeTag {p : Part} (h : p.Sound) (t : DTag) : (freeTag p t).Sound := h

theorem Sound.discardHeld {p : Part} (h : p.Sound) (e : HoldEntry) : (discardHeld p e).Sound :=
  (Keeps.discardHeld (Keeps.refl p) e).sound h

theorem Sound.dismiss {p : Part} (h : p.Sound) (e : HoldEntry) (code : RespCode) : (dismiss p e code).Sound :=
  (Keeps.dismiss (Keeps.refl p) e code).sound h

theorem Sound.answerMarkers {p : Part} (h : p.Sound) (pick : Part → Chan → Bool) (code : RespCode) (r : MarkerReason) :
    (answerMarkers p pick code r).Sound :=
  (Keeps.answerMarkers (Keeps.refl p) pick code r).sound h

theorem Sound.answerAll {p : Part} (h : p.Sound) (cs : List Chan) (code : RespCode) (r : MarkerReason) :
    (answerAll p cs code r).Sound :=
  (Keeps.answerAll (Keeps.refl p) cs code r).sound h

theorem Sound.settle {p : Part} (h : p.Sound) : (settle p).Sound := (settle_keeps p).sound h

/-- A halt needs no freeze that holds before it. -/
theorem Sound.journalWriteFailed {p : Part} (h : p.Sound) (w : Purpose) : (journalWriteFailed p w).Sound := by
  unfold Machine.journalWriteFailed; dsimp only
  have h1 : (Machine.modJournal p w fun w => { w with failed := true }).Sound := h
  generalize Machine.modJournal p w (fun w => { w with failed := true }) = p1 at h1
  have h2 : ∀ cause seg, (Machine.haltWriter p1 cause seg).Sound := fun cause seg =>
    (Keeps.halting (Keeps.refl (halting p1 cause seg))).sound ⟨h1.1, fun _ => Or.inr rfl⟩
  cases p.writer.state
  · exact h1
  · exact h2 _ _
  · exact h2 _ _
  · exact h1
  · exact h2 _ _

/-- A part with nothing in its queues and no freeze is sound. -/
theorem Sound.fresh {p : Part} (h1 : p.port.intake = []) (h2 : p.hold.queue = []) (h3 : p.tracker = [])
    (h4 : p.power.frozen = false) : p.Sound :=
  ⟨⟨by simp [h1], by simp [h2], by simp [h3]⟩, fun e => by rw [h4] at e; cases e⟩

/-- A sound part whose writer is STOPPED, RUNNING or SUSPENDED is not frozen. -/
theorem Sound.notFrozen {p : Part} (h : p.Sound) (h1 : p.writer.state ≠ .frozen) (h2 : p.writer.state ≠ .halted) :
    p.power.frozen = false := by
  cases hf : p.power.frozen
  · rfl
  · rcases h.2 hf with e | e
    · exact absurd e h1
    · exact absurd e h2

/-- Without a freeze the writer may take any condition. -/
theorem Sound.anyWriter {p q : Part} (h : p.Sound) (hf : p.power.frozen = false) (hi : q.port.intake = p.port.intake)
    (hh : q.hold.queue = p.hold.queue) (ht : q.tracker = p.tracker) (hp : q.power.frozen = p.power.frozen) : q.Sound :=
  ⟨⟨by rw [hi]; exact h.1.1, by rw [hh]; exact h.1.2.1, by rw [ht]; exact h.1.2.2⟩,
    fun e => by rw [hp, hf] at e; cases e⟩

/-! ### Freeze and resets (Power) -/

theorem Sound.freezeEntry {p : Part} (h : p.Sound) (e : HoldEntry) : (freezeEntry p e).Sound := by
  unfold Machine.freezeEntry
  split
  · cases e.state
    case copying =>
      dsimp only
      split
      · exact Sound.discardHeld h e
      · exact Sound.dismiss h e _
    case forwarding => exact h
    case recording => exact h
    all_goals exact Sound.dismiss h e _
  · exact h

/-- The freeze makes its own condition hold. -/
theorem Sound.freezeBlocks {p : Part} (h : p.Sound) : (freezeBlocks p).Sound := by
  unfold Machine.freezeBlocks; dsimp only
  refine Sound.foldl (fun _ e hq => Sound.freezeEntry hq e) _ (Sound.answerAll (Sound.answerMarkers ?_ _ _ _) _ _ _)
  refine ⟨h.1, fun _ => ?_⟩
  by_cases hw : p.writer.state = .halted
  · exact Or.inr (by simp [freezeWriter, hw])
  · exact Or.inl (by simp [freezeWriter, hw])

theorem Sound.takeFreeze {p : Part} (h : p.Sound) : (takeFreeze p).Sound := by
  unfold Machine.takeFreeze
  split
  · exact h
  · exact Sound.settle (Sound.freezeBlocks h)

theorem Sound.samplePfail {p : Part} (h : p.Sound) : (samplePfail p).Sound := by
  unfold Machine.samplePfail
  split
  · exact Sound.takeFreeze h
  · exact h

/-- Every part is sound after a power-on or pin reset. -/
theorem Sound.hardReset (p : Part) : (hardReset p).Sound := Sound.samplePfail (Sound.fresh rfl rfl rfl rfl)

theorem Sound.drainIntake {p : Part} (h : p.Sound) : (drainIntake p).Sound := by
  unfold Machine.drainIntake
  refine Sound.foldl (f := fun q (e : IntakeEntry) => Machine.respond q e.req.tag .refused [])
    (fun _ e hq => Sound.respond hq e.req.tag _ _) _ ?_
  exact ⟨⟨Nat.zero_le _, h.1.2⟩, h.2⟩

theorem Sound.drainHold {p : Part} (h : p.Sound) : (drainHold p).Sound :=
  Sound.foldl (fun _ e hq => Sound.dismiss hq e _) _ h

theorem Sound.drainBlocks {p : Part} (h : p.Sound) : (drainBlocks p).Sound := by
  unfold Machine.drainBlocks; dsimp only
  have h0 : ({ p with command := { p.command with busy := .softReset } } : Part).Sound := h
  have h1 := Sound.drainHold (Sound.drainIntake h0)
  generalize Machine.drainHold (Machine.drainIntake { p with command := { p.command with busy := .softReset } }) = p1 at h1
  have h2 : ({ p1 with writer := { p1.writer with waiting := [] } } : Part).Sound := h1
  generalize ({ p1 with writer := { p1.writer with waiting := [] } } : Part) = p2 at h2
  have h3 := Sound.answerMarkers h2 commitUnplaced .refused .softReset
  generalize Machine.answerMarkers p2 commitUnplaced .refused .softReset = p3 at h3
  exact Sound.answerAll h3 _ _ _

theorem Sound.softResetTaken {p : Part} (h : p.Sound) : (softResetTaken p).Sound := by
  unfold Machine.softResetTaken
  split
  · exact h
  · exact Sound.settle (Sound.drainBlocks h)

/-- Every part is sound after a soft reset. -/
theorem Sound.drainEnds (p : Part) : (drainEnds p).Sound := Sound.samplePfail (Sound.fresh rfl rfl rfl rfl)

/-! ### Recovery and format (Recovery) -/

theorem Sound.endCommand {p : Part} (h : p.Sound) (r : CommandResult) (w : CommandReason) : (endCommand p r w).Sound := h

theorem Sound.recoveryFails {p : Part} (h : p.Sound) (w : FailureReason) (x : FaultPlace) : (recoveryFails p w x).Sound := h

theorem Sound.recoveryReads {p : Part} (h : p.Sound) (st : RecoveryStage) (rs : List DownReq) :
    (recoveryReads p st rs).Sound := h

theorem Sound.assignChannels {p : Part} (h : p.Sound) (r : Chan → Epoch) : (assignChannels p r).Sound :=
  Sound.foldl (fun _ c hq => Sound.modChan hq c _) _ h

/-- READY is reached only without a freeze. -/
theorem Sound.reachReady {p : Part} (h : p.Sound) (hf : p.power.frozen = false) (f : Seq) (r : Chan → Epoch) :
    (reachReady p f r).Sound := by
  unfold Machine.reachReady; dsimp only
  refine Sound.raiseEvent (Sound.endCommand (Sound.assignChannels ?_ r) _ _) _
  exact Sound.anyWriter h hf rfl rfl rfl rfl

theorem Sound.writeHeader {p : Part} (h : p.Sound) (st : RecoveryStage) (s : Nat) (a : Bool) (f : Seq) (r : Vector Epoch 4) :
    (writeHeader p st s a f r).Sound := h

theorem Sound.formatFrom {p : Part} (h : p.Sound) (l : List Nat) : (formatFrom p l).Sound := by
  unfold Machine.formatFrom; split <;> exact h

theorem Sound.rebase {p : Part} (h : p.Sound) : (rebase p).Sound := by
  unfold Machine.rebase; dsimp only; split <;> exact h

theorem Sound.restoreFrom {p : Part} (h : p.Sound) (l : List Nat) : (restoreFrom p l).Sound := by
  unfold Machine.restoreFrom; dsimp only
  split
  · exact Sound.rebase h
  · split
    · exact h
    · refine Sound.rebase ?_; exact h

theorem Sound.scanChecks {p : Part} (h : p.Sound) : (scanChecks p).Sound := by
  unfold Machine.scanChecks; dsimp only
  split
  · exact h
  · split
    · exact h
    · split
      · refine Sound.rebase ?_; exact h
      · refine Sound.restoreFrom ?_ _; exact h

theorem Sound.scanAfter {p : Part} (h : p.Sound) (s : Nat) : (scanAfter p s).Sound := by
  unfold Machine.scanAfter
  split
  · exact h
  · exact Sound.scanChecks h

theorem Sound.scanEnds {p : Part} (h : p.Sound) (s : Nat) (w : ScanEnd) : (scanEnds p s w).Sound := by
  unfold Machine.scanEnds
  refine Sound.scanAfter ?_ s
  exact h

theorem Sound.scanAt {p : Part} (h : p.Sound) (s slot : Nat) (n : Seq) : (scanAt p s slot n).Sound := by
  unfold Machine.scanAt; dsimp only
  split
  · exact h
  · exact Sound.scanEnds h s _

theorem Sound.acceptRecord {p : Part} (h : p.Sound) (s slot : Nat) (w : HeaderSlot) : (acceptRecord p s slot w).Sound := by
  unfold Machine.acceptRecord; dsimp only
  split <;> exact h

theorem Sound.acceptHeader {p : Part} (h : p.Sound) (s : Nat) (bs : List Byte) : (acceptHeader p s bs).Sound := by
  unfold Machine.acceptHeader; dsimp only
  have hm : ∀ (q : Part) (c : Chan) f, q.Sound → (modChannelScan q c f).Sound := fun _ _ _ hq => hq
  refine Sound.foldl (fun q c hq => hm q c _ hq) _ ?_
  exact h

theorem Sound.scanRecordTested {p : Part} (h : p.Sound) (s slot : Nat) (n : Seq) (w : HeaderSlot) (v : Bool) :
    (scanRecordTested p s slot n w v).Sound := by
  unfold Machine.scanRecordTested; dsimp only
  have h1 := Sound.acceptRecord h s slot w
  split
  · split
    all_goals first
      | exact Sound.scanAt h1 _ _ _
      | exact Sound.scanEnds h1 _ _
  · exact Sound.scanEnds h s _

theorem Sound.scanHeaderRead {p : Part} (h : p.Sound) (s : Nat) (bs : List Byte) : (scanHeaderRead p s bs).Sound := by
  unfold Machine.scanHeaderRead; dsimp only
  split
  · split
    · refine Sound.scanAt (Sound.acceptHeader ?_ _ _) _ _ _; exact h
    · refine Sound.scanAfter ?_ _; exact h
  · refine Sound.scanAfter ?_ _; exact h

theorem Sound.scanSlotRead {p : Part} (h : p.Sound) (s slot : Nat) (n : Seq) (bs : List Byte) :
    (scanSlotRead p s slot n bs).Sound := by
  unfold Machine.scanSlotRead; dsimp only
  split
  · exact h
  · exact Sound.scanRecordTested h _ _ _ _ _

theorem Sound.scanWholeRead {p : Part} (h : p.Sound) (s slot : Nat) (n : Seq) (bs : List Byte) :
    (scanWholeRead p s slot n bs).Sound := Sound.scanRecordTested h _ _ _ _ _

theorem Sound.restoreFails {p : Part} (h : p.Sound) (s : Nat) (n : Seq) (l : Option Addr) : (restoreFails p s n l).Sound := h

theorem Sound.backStep {p : Part} (h : p.Sound) (s slot : Nat) (n : Seq) (w : HeaderSlot) : (backStep p s slot n w).Sound := by
  unfold Machine.backStep
  split
  · exact Sound.restoreFrom h _
  · split <;> exact h

theorem Sound.backHeaderRead {p : Part} (h : p.Sound) (s slot : Nat) (n : Seq) (w : HeaderSlot) :
    (backHeaderRead p s slot n w).Sound := by
  unfold Machine.backHeaderRead; dsimp only
  split
  · split
    · exact h
    · exact Sound.backStep h _ _ _ _
  · exact h

theorem Sound.backPayloadRead {p : Part} (h : p.Sound) (s slot : Nat) (n : Seq) (w : HeaderSlot) (i : List Byte) :
    (backPayloadRead p s slot n w i).Sound := by
  unfold Machine.backPayloadRead; dsimp only
  split
  · split
    · refine Sound.backStep ?_ _ _ _ _; exact h
    · exact h
  · exact h

/-- An answer that a freeze or a drain has overtaken keeps the part sound; else what it does need only keep it without
a freeze. -/
theorem Sound.unlessStopped {p go : Part} (h : p.Sound) (hgo : p.power.frozen = false → go.Sound) :
    (unlessStopped p go).Sound := by
  unfold Machine.unlessStopped
  split
  · exact h
  · split
    · exact h
    next hf => exact hgo (by simpa using hf)

theorem Sound.scanAnswered {p : Part} (h : p.Sound) (a : ReadAnswer) : (scanAnswered p a).Sound := by
  unfold Machine.scanAnswered
  split
  · exact Sound.unlessStopped h fun _ => Sound.scanHeaderRead h _ _
  · exact Sound.unlessStopped h fun _ => Sound.recoveryFails h _ _
  · exact Sound.unlessStopped h fun _ => Sound.scanSlotRead h _ _ _ _
  · exact Sound.unlessStopped h fun _ => Sound.recoveryFails h _ _
  · exact h

theorem Sound.scanPieceAnswered {p : Part} (h : p.Sound) (s slot : Nat) (n : Seq) (ps : List Piece) (k : Nat)
    (a : ReadAnswer) : (scanPieceAnswered p s slot n ps k a).Sound := by
  cases a
  · refine Sound.unlessStopped h fun _ => ?_
    split
    · exact Sound.scanWholeRead h _ _ _ _
    · exact h
  · exact Sound.unlessStopped h fun _ => Sound.recoveryFails h _ _

theorem Sound.backHeaderAnswered {p : Part} (h : p.Sound) (s slot : Nat) (n : Seq) (a : ReadAnswer) :
    (backHeaderAnswered p s slot n a).Sound := by
  cases a
  · exact Sound.unlessStopped h fun _ => Sound.backHeaderRead h _ _ _ _
  · exact Sound.unlessStopped h fun _ => Sound.restoreFails h _ _ _

theorem Sound.backPieces {p : Part} (h : p.Sound) (s slot : Nat) (n : Seq) (w : HeaderSlot) (ps : List Piece) :
    (backPieces p s slot n w ps).Sound := by
  unfold Machine.backPieces
  split
  · refine Sound.unlessStopped h fun _ => ?_
    split
    · exact Sound.restoreFails h _ _ _
    · exact Sound.backPayloadRead h _ _ _ _ _
  · exact h

theorem Sound.countRecovered {p : Part} (h : p.Sound) (w : HeaderSlot) : (countRecovered p w).Sound := h

theorem Sound.backWriteAnswered {p : Part} (h : p.Sound) (s slot : Nat) (n : Seq) (w : HeaderSlot) (a : WriteAnswer) :
    (backWriteAnswered p s slot n w a).Sound := by
  have h1 := Sound.countRecovered h w
  cases a
  · unfold Machine.backWriteAnswered; dsimp only
    split
    · exact Sound.unlessStopped h fun _ => h
    · exact Sound.unlessStopped h1 fun _ => Sound.backStep h1 _ _ _ _
  · exact Sound.unlessStopped h fun _ => Sound.restoreFails h _ _ _

theorem Sound.formatAnswered {p : Part} (h : p.Sound) (s : Nat) (a : WriteAnswer) : (formatAnswered p s a).Sound := by
  cases a
  · exact Sound.unlessStopped h fun _ => Sound.formatFrom h _
  · exact Sound.unlessStopped h fun _ => Sound.recoveryFails h _ _

theorem Sound.activeAnswered {p : Part} (h : p.Sound) (s : Nat) (a : WriteAnswer) : (activeAnswered p s a).Sound := by
  cases a
  · exact Sound.unlessStopped h fun hf => Sound.reachReady h hf _ _
  · exact Sound.unlessStopped h fun _ => Sound.recoveryFails h _ _

theorem Sound.buildTable {p : Part} (h : p.Sound) : (buildTable p).Sound := h

theorem Sound.beginRecover {p : Part} (h : p.Sound) : (beginRecover p).Sound := h

theorem Sound.beginFormat {p : Part} (h : p.Sound) : (beginFormat p).Sound := by
  unfold Machine.beginFormat; dsimp only
  refine Sound.formatFrom ?_ _; exact h

/-! ### The command slot (Slot) -/

theorem Sound.refuseCommand {p : Part} (h : p.Sound) (c : CommandName) (w : CommandReason) : (refuseCommand p c w).Sound := h

theorem Sound.refuseGeometry {p : Part} (h : p.Sound) (c : CommandName) (d : GeometryDetail) (o : Fin 16) :
    (refuseGeometry p c d o).Sound := h

theorem Sound.unlessBusy {p : Part} (h : p.Sound) (c : CommandName) {f : Part → Part} (hf : (f p).Sound) :
    (unlessBusy p c f).Sound := by
  unfold Machine.unlessBusy
  split
  · exact hf
  · exact h

theorem Sound.withGeometry {p : Part} (h : p.Sound) (c : CommandName) {f : Part → Part} (hf : (f p).Sound) :
    (withGeometry p c f).Sound := by
  unfold Machine.withGeometry
  split
  · exact h
  · exact hf

theorem Sound.judgeRecover {p : Part} (h : p.Sound) : (judgeRecover p).Sound := by
  unfold Machine.judgeRecover
  split
  · exact h
  · split
    · exact Sound.withGeometry h _ (Sound.beginRecover h)
    · exact h

theorem Sound.judgeFormat {p : Part} (h : p.Sound) : (judgeFormat p).Sound := by
  unfold Machine.judgeFormat
  split
  · exact h
  · split
    · exact Sound.withGeometry h _ (Sound.beginFormat h)
    · exact h

/-- START needs a STOPPED writer, so no freeze is broken. -/
theorem Sound.judgeStart {p : Part} (h : p.Sound) : (judgeStart p).Sound := by
  unfold Machine.judgeStart
  split
  · exact h
  next hs =>
    split
    · exact h
    · refine Sound.withGeometry h _ ?_
      have hs' : p.writer.state = .stopped := by simpa using hs
      exact Sound.anyWriter h (Sound.notFrozen h (by rw [hs']; decide) (by rw [hs']; decide)) rfl rfl rfl rfl

/-- STOP needs a RUNNING or SUSPENDED writer, so no freeze is broken. -/
theorem Sound.judgeStop {p : Part} (h : p.Sound) : (judgeStop p).Sound := by
  unfold Machine.judgeStop
  split
  · exact h
  next hs =>
    repeat' split
    · exact h
    · exact h
    · have hs' : p.writer.state = .running ∨ p.writer.state = .suspended := by
        by_contra hn
        rw [not_or] at hn
        exact hs (by simp [hn.1, hn.2])
      refine Sound.anyWriter h (Sound.notFrozen h ?_ ?_) rfl rfl rfl rfl <;>
        (intro e; rw [e] at hs'; rcases hs' with h' | h' <;> cases h')

theorem Sound.judgeReturn {p : Part} (h : p.Sound) (n : Nat) : (judgeReturn p n).Sound := by
  unfold Machine.judgeReturn
  split
  · exact h
  · split
    · exact h
    · split
      · exact h
      · unfold Machine.returnHeld
        refine Sound.settle ?_
        exact h

theorem Sound.commandWritten {p : Part} (h : p.Sound) (v : Word) : (commandWritten p v).Sound := by
  unfold Machine.commandWritten
  split
  · exact Sound.unlessBusy h _ (Sound.judgeRecover h)
  · exact Sound.unlessBusy h _ (Sound.judgeFormat h)
  · exact Sound.unlessBusy h _ (Sound.judgeStart h)
  · exact Sound.unlessBusy h _ (Sound.judgeStop h)
  · exact Sound.unlessBusy h _ (Sound.judgeReturn h _)
  · exact Sound.softResetTaken h
  · exact h

/-! ### The register window (Registers) -/

theorem Sound.writeRegion {p : Part} (h : p.Sound) (r : RegionReg) (v : Word) : (writeRegion p r v).Sound := by
  unfold Machine.writeRegion
  repeat' split
  all_goals exact h

theorem Sound.writeConfigGroup {p : Part} (h : p.Sound) (r : ConfigReg) (v : Word) : (writeConfigGroup p r v).Sound := by
  unfold Machine.writeConfigGroup
  repeat' split
  all_goals exact h

theorem Sound.writeMarkerCode {p : Part} (h : p.Sound) (c : Chan) (v : Word) : (writeMarkerCode p c v).Sound := by
  unfold Machine.writeMarkerCode
  split <;> exact h

theorem Sound.writeChannelRegister {p : Part} (h : p.Sound) (c : Chan) (k : Nat) (v : Word) :
    (writeChannelRegister p c k v).Sound := by
  unfold Machine.writeChannelRegister
  split
  · exact Sound.writeConfigGroup h _ _
  · exact Sound.writeMarkerCode h _ _
  · exact h

theorem Sound.writeRegister {p : Part} (h : p.Sound) (i : BitVec 7) (v : Word) : (writeRegister p i v).Sound := by
  unfold Machine.writeRegister; dsimp only
  split
  case h_3 => exact Sound.commandWritten h v
  case h_4 => exact Sound.writeConfigGroup h _ _
  case h_5 => exact Sound.writeConfigGroup h _ _
  case h_6 => exact Sound.writeConfigGroup h _ _
  case h_7 => exact Sound.writeConfigGroup h _ _
  case h_8 => exact Sound.writeConfigGroup h _ _
  case h_10 => exact Sound.writeRegion h _ _
  case h_11 => exact Sound.writeRegion h _ _
  case h_12 => exact Sound.writeRegion h _ _
  case h_19 =>
    split
    · exact Sound.writeChannelRegister h _ _ _
    · exact h
  all_goals exact h

/-- A register group keeps the part sound when its row's effect keeps it. -/
theorem Sound.groupTaken {p : Part} (h : p.Sound) (i : BitVec 7) (v : Word) {f : Part → Part} (hf : (f p).Sound) :
    (groupTaken p i v f).Sound := by
  unfold Machine.groupTaken
  split
  · exact h
  · exact h
  · split
    · dsimp only
      split
      · exact hf
      · exact Sound.writeRegister h _ _
    · exact h

theorem Sound.sampled {p : Part} (h : p.Sound) (i : BitVec 7) : (sampled p i).Sound := h

theorem Sound.commandByteTaken {p : Part} (h : p.Sound) (b : Byte) : (commandByteTaken p b).Sound := by
  unfold Machine.commandByteTaken
  repeat' split
  all_goals exact h

theorem Sound.pairLoSampled {p : Part} (h : p.Sound) (i : BitVec 7) : (pairLoSampled p i).Sound := by
  unfold Machine.pairLoSampled
  repeat' split
  all_goals exact h

end Sys2Proof.Laws
end

