-- ==== Sys2Proof/Laws/Writer.lean ====
section
/-! SUPPORT. What the journal writer's operations do, said once: what a placement leaves alone, and how the frontier
rises. -/

namespace Sys2Proof.Laws

open Sys2Proof.Machine

/-- What a placement that succeeds leaves alone: all but the segment table, the next number, the journal writes, the
requests handed over and the flags (R94, R97, R99). -/
def besidesPlacement (p : Part) :=
  ((p.port, p.classifier, p.tracker, p.hold, p.slots, p.channels, p.restore, p.link, p.command, p.power, p.now),
    (p.writer.state, p.writer.haltCause, p.writer.haltSegment, p.writer.frontier, p.writer.waiting, p.writer.retain),
    (p.arbiter.issued, p.arbiter.mode, p.arbiter.lastTurn, p.events.enables))

theorem putRecord_besides (p : Part) (i : Nat) (e : SegEntry) (r : PlaceReq) :
    besidesPlacement (putRecord p i e r) = besidesPlacement p := by
  unfold Machine.putRecord; dsimp only; split <;> rfl

theorem reclaim_besides (p : Part) (i : Nat) : besidesPlacement (reclaim p i) = besidesPlacement p := by
  unfold Machine.reclaim; dsimp only; split <;> rfl

theorem closeSegment_besides (p : Part) (i : Nat) : besidesPlacement (closeSegment p i) = besidesPlacement p := by
  unfold Machine.closeSegment; dsimp only
  split
  · exact reclaim_besides _ _
  · rfl

theorem activate_besides (p : Part) (j : Nat) : besidesPlacement (activate p j) = besidesPlacement p := rfl

theorem openSegment_besides (p : Part) (i : Nat) (e : SegEntry) :
    besidesPlacement (openSegment p i e) = besidesPlacement p := by
  unfold Machine.openSegment; dsimp only
  split
  · rw [closeSegment_besides]; split <;> [rfl; exact putRecord_besides _ _ _ _]
  · rw [activate_besides, closeSegment_besides]; split <;> [rfl; exact putRecord_besides _ _ _ _]

/-- A placement that gives a number leaves the rest of the part alone. -/
theorem place_besides {p q : Part} {r : PlaceReq} {n : Seq} (h : place p r = (q, some n)) :
    besidesPlacement q = besidesPlacement p := by
  unfold Machine.place at h
  dsimp only at h
  repeat' split at h
  all_goals simp only [Prod.mk.injEq, reduceCtorEq, and_false, Option.some.injEq] at h
  · rw [← h.1, putRecord_besides]
  all_goals rw [← h.1, putRecord_besides, openSegment_besides]

/-- A halt leaves the writer HALTED (R98, R101). -/
theorem haltWriter_state (p : Part) (cause : HaltCause) (seg : Nat) : (haltWriter p cause seg).writer.state = .halted := by
  have h : WriterMoves (standing (halting p cause seg).writer) (standing (haltWriter p cause seg).writer) :=
    (Keeps.halting (Keeps.refl (halting p cause seg))).2.1
  rcases h with h | ⟨h, -⟩
  · simp only [standing, Prod.mk.injEq] at h
    exact h.1.symm
  · rcases h with h | h <;> cases h

/-- A placement that gives no number halts the writer, or leaves the rest of the part alone. -/
theorem place_none {p q : Part} {r : PlaceReq} (h : place p r = (q, none)) :
    q.writer.state = .halted ∨ besidesPlacement q = besidesPlacement p := by
  unfold Machine.place at h
  dsimp only at h
  repeat' split at h
  all_goals simp only [Prod.mk.injEq, reduceCtorEq, and_false, and_true] at h
  all_goals subst h
  all_goals first
    | with_reducible exact Or.inl (haltWriter_state _ _ _)
    | with_reducible exact Or.inr (openSegment_besides _ _ _)
    | with_reducible exact Or.inr rfl

/-- The frontier rises past the longest run of done writes, to the number of the last record in it (R100). -/
theorem popDone_eq (js : List JournalWrite) : ∀ f : Seq,
    popDone f js = (((js.takeWhile JournalWrite.isDone).filter fun j => !j.isHeader).getLast?.elim f (·.seq),
      js.dropWhile JournalWrite.isDone) := by
  induction js with
  | nil => intro f; rfl
  | cons j js ih =>
    intro f
    unfold popDone
    by_cases hd : j.isDone = true
    · rw [if_pos hd, ih, List.takeWhile_cons_of_pos hd, List.dropWhile_cons_of_pos hd]
      by_cases hh : j.isHeader = true
      · simp [hh]
      · simp only [hh, Bool.false_eq_true, if_false, Bool.not_false, List.filter_cons_of_pos, List.getLast?_cons]
        cases (((js.takeWhile JournalWrite.isDone).filter fun j => !j.isHeader).getLast?) <;> rfl
    · rw [if_neg hd, List.takeWhile_cons_of_neg hd, List.dropWhile_cons_of_neg hd]; rfl

/-- The search for a FREE segment: the first one in circular order (R97). -/
theorem findFree_eq {table : List SegEntry} {i d : Nat} (hd : d < table.length)
    (h1 : ∃ x, table[(i + 1 + d) % table.length]? = some x ∧ x.state = .free)
    (h2 : ∀ d' < d, ∀ x, table[(i + 1 + d') % table.length]? = some x → x.state ≠ .free) :
    findFree table (i + 1) = some ((i + 1 + d) % table.length) := by
  unfold findFree
  rw [List.find?_eq_some_iff_getElem]
  obtain ⟨x, hx, hf⟩ := h1
  refine ⟨by simp [hx, hf], d, by simpa using hd, by simp, fun j hj => ?_⟩
  have := h2 j hj
  simp only [List.getElem_map, List.getElem_range]
  cases hy : table[(i + 1 + j) % table.length]? with
  | none => simp
  | some y => simp [this y hy]

end Sys2Proof.Laws
end

