-- ==== Sys2Proof/Tests/Slice0.lean ====
section
/-! SUPPORT. Small tests: every check of WellFormed refuses an ill-formed term, the manual's worked numbers come out, each
family of commands acts on a small state, and the hypotheses of every statement can be met (test_meets_…). -/

namespace Sys2Proof.Tests

open Sys2Proof Sys2Proof.Machine

-- The tests are checked one after another: run all at once, each waits on a thread of its own.
set_option Elab.async false

/-! ### WellFormed -/

/-- A write of n bytes, all enabled. -/
def writeReq (tag : Tag) (a : Addr) (n : Nat) : Request :=
  { tag := tag, kind := .write, addr := a, len := n, enables := List.replicate n true, data := List.replicate n 0x5A }

/-- A read of n bytes. -/
def readReq (tag : Tag) (a : Addr) (n : Nat) : Request :=
  { tag := tag, kind := .read, addr := a, len := n, enables := [], data := [] }

theorem test_wf_request : (Instr.upstreamRequest (writeReq 1 0x100 4)).wf = true ∧
    (Instr.upstreamRequest { writeReq 1 0x100 4 with enables := [] }).wf = false ∧
    (Instr.upstreamRequest { writeReq 1 0x100 4 with data := [] }).wf = false ∧
    (Instr.upstreamRequest { readReq 1 0x100 4 with data := [0] }).wf = false ∧
    (Instr.upstreamRequest { readReq 1 0x100 4 with enables := [true] }).wf = false := by decide

theorem test_wf_data : (Instr.ptAnswerDone 0 (List.replicate 256 0)).wf = true ∧
    (Instr.ptAnswerDone 0 (List.replicate 257 0)).wf = false ∧
    (Instr.copyReadDone 0 (List.replicate 64 0)).wf = true ∧
    (Instr.copyReadDone 0 (List.replicate 63 0)).wf = false := by decide +kernel

theorem test_wf_operands : (Instr.unknownCommand 3).wf = false ∧ (Instr.unknownCommand 7).wf = true ∧
    (Instr.pairLoRead 0x1A).wf = false ∧ (Instr.pairLoRead 0x19).wf = true ∧
    (Instr.frameEnd [0, 0, 0, 0]).wf = false ∧ (Instr.frameEnd [0, 0, 0]).wf = true := by decide

/-! ### States to test on -/

/-- The part after a command. -/
def after (c : Instr) (p : Part) : Part :=
  match exec c ⟨p, []⟩ with
  | .next s => s.part
  | .fault _ | .refused _ => p

/-- The part right after reset. -/
def blank : Part := Part.reset

/-- Four segments of 4 KiB from 0x100_0000. -/
def geo : Geometry := { base := 0x100, sizeCode := 0, count := 4, identity := 0x5A5A0001, exclude := 0 }

/-- An enabled region of one page. -/
def region (pg : Page) (k : RegionClass) (c : Chan) : RegionEntry :=
  { enabled := true, base := pg, limit := pg, cls := k, channel := c }

/-- PASS, GUARDED, STRICT (channel 0), LENIENT (channel 1) and MARKER (channel 0) pages at 0x1, 0x2, 0x3, 0x4, 0x5. -/
def regions : Vector RegionEntry 16 :=
  setAt (setAt (setAt (setAt (setAt (Vector.replicate 16 RegionEntry.cleared) 0 (region 1 .pass 0)) 1 (region 2 .guarded 0))
    2 (region 3 .strict 0)) 3 (region 4 .lenient 1)) 4 (region 5 .marker 0)

/-- Configured, not yet recovered. -/
def configured : Part :=
  { blank with classifier := { blank.classifier with geometry := geo, regions := regions },
               channels := setAt blank.channels 0 { Channel.cleared with enabled := true, code := 0xC0DE } }

/-- In service: READY, RUNNING from sequence number 1, channel 0 OPEN at epoch 1. -/
def ready : Part :=
  let p := goIntoService (putInForce configured) 1
  { p with restore := { p.restore with recovery := .ready },
           channels := setAt p.channels 0 { chan p 0 with state := .opened, epoch := 1 } }

/-- A part with one request waiting at the classifier. -/
def withHead (p : Part) (r : Request) : Part := { p with port := { p.port with intake := [{ req := r, cls := none }] } }

/-- A part with a request issued downstream under tag 0. -/
def withIssued (p : Part) (r : DownReq) : Part :=
  { p with arbiter := { p.arbiter with issued := setAt p.arbiter.issued 0 (some r) } }

/-- A part whose writer is in a state. -/
def withWriter (p : Part) (st : WriterState) : Part := { p with writer := { p.writer with state := st } }

/-- A part with a busy command. -/
def withBusy (p : Part) (b : BusyCommand) : Part := { p with command := { p.command with busy := b } }

/-- A part with the freeze taken. -/
def withFreeze (p : Part) : Part := { p with power := { frozen := true, pfail := true } }

/-- A part with a link in a state. -/
def withFrame (p : Part) (f : FrameState) : Part := { p with link := { p.link with frame := f } }

/-- A part in a write frame that has come to an index. -/
def inWriteFrame (p : Part) (i : BitVec 7) : Part := withFrame p (.frame { isWrite := true, index := i, capture := none })

/-- The part after a register group at an index. -/
def written (i : BitVec 7) (c : Instr) (p : Part) : Part := after c (inWriteFrame p i)

/-- A part whose recovery has a transfer in flight. -/
def withStage (p : Part) (b : BusyCommand) (st : RecoveryStage) : Part :=
  withIssued { withBusy p b with restore := { p.restore with stage := st } } (engineRead (.recovery 0) 0 64)

/-- A marker of three words. -/
def marker (w0 w1 w2 : Word) : Request :=
  { writeReq 1 0x5000 16 with data := bytesOfWord w0 ++ bytesOfWord w1 ++ bytesOfWord w2 ++ bytesOfWord 0 }

/-- A hold entry of channel 0 for one line. -/
def entry (tag : Tag) (r : Request) (st : EntryState) (sub : LineState) : HoldEntry :=
  { req := { r with tag := tag }, lines := [{ line := 0x3000, changed := true, sub := sub, untracked := false }],
    cls := .strict, channel := 0, region := 2, epoch := some 1, state := st, deadline := some 10, failed := false,
    torn := false }

/-- A part with hold entries. -/
def withHold (p : Part) (es : List HoldEntry) : Part := { p with hold := { p.hold with queue := es } }

/-- A part with a journal write placed. -/
def withJournal (p : Part) (js : List JournalWrite) : Part := { p with writer := { p.writer with journal := js } }

/-- A journal write. -/
def placedWrite (isHeader : Bool) (n : Seq) (left : Nat) : JournalWrite :=
  { isHeader := isHeader, seq := n, seg := 0, addr := 0, bytes := [], presented := true, unanswered := left, failed := false }

/-! ### Worked numbers of the manual -/

/-- Chapter 4, "One Segment From Placement to Scan": the TORN record's header words. -/
theorem test_torn_record_words :
    let r : PlaceReq := { kind := .torn, channel := 1, epoch := 12, torn := false, fault := false, overflowed := false,
                          line := 0, region := 0xFFFF, image := [], undoCount := 0 }
    let h := placedHeader 0x5A5A0001 r 304 1 1
    [h.w0, h.w1, h.w2, h.w3, h.w4, h.w5, h.w6, h.w7] =
      [0x01010104, 0xC, 0x130, 0xFFFF0000, 0, 0, 0, 0xA4A5FDBE] := by decide +kernel

/-- Chapter 8, "Two Modes, One Backlog": the backlog W1, P1, P2, C1, W2, P3. -/
def backlog (mode : ArbiterMode) : Part :=
  let req := fun (u : Purpose) (a : Nat) => engineRead u a 64
  { blank with arbiter := { blank.arbiter with
      mode := mode,
      waiting := [req (.record 1) 0x1000, req (.plain 1) 0x2000, req (.direct 2 0) 0x3000, req (.copy 1) 0x3000,
                  req (.record 2) 0x4000, req (.plain 3) 0x5000] } }

/-- The purposes issued by turns that take the tags 0, 1, … in turn. -/
def issueOrder (p : Part) : List (Option Purpose) :=
  let q := [0, 1, 2, 3, 4, 5].foldl (fun q t => after (.arbiterTurn t) q) p
  [0, 1, 2, 3, 4, 5].map fun t => (getAt q.arbiter.issued t).map (·.purpose)

theorem test_arbiter_fair : issueOrder (backlog .fair) =
    [some (.plain 1), some (.record 1), some (.direct 2 0), some (.record 2), some (.plain 3), some (.copy 1)] := by
  decide +kernel

theorem test_arbiter_engineFirst : issueOrder (backlog .engineFirst) =
    [some (.record 1), some (.record 2), some (.plain 1), some (.direct 2 0), some (.copy 1), some (.plain 3)] := by
  decide +kernel

/-- Chapter 10, "Reading the Frontier During a Drain": the _HI half is the captured one. -/
theorem test_pair_capture :
    let p := after (.commandByte 0x19) { blank with writer := { blank.writer with frontier := 0x100000801 } }
    let later := { p with writer := { p.writer with frontier := 0x200000802 } }
    p.link.sample = 0x801 ∧ (match p.link.frame with
      | .frame f => nextSample later f == 1
      | .idle | .ignoring => false) = true := by decide +kernel

/-! ### A small effect of each family -/

theorem test_reset_and_idle : step State.reset = .next { State.reset with part := { blank with now := 1 } } := rfl

theorem test_step_runs_front : step { part := blank, pending := [.pfailNegation, .stop] } =
    exec .pfailNegation { part := blank, pending := [.stop] } := rfl

theorem test_request_taken : (after (.upstreamRequest (readReq 3 0x1000 8)) ready).port.intake =
    [{ req := readReq 3 0x1000 8, cls := none }] := by decide +kernel

theorem test_first_touch_starts_copy :
    let p := after .classifyRequest (withHead ready (writeReq 1 0x3000 4))
    p.hold.queue.map (·.state) = [.copying] ∧ p.arbiter.waiting.map (·.purpose) = [.copy 0] ∧
      p.tracker = [{ line := 0x3000, channel := 0, seq := none }] := by decide +kernel

theorem test_empty_commit_is_done :
    let p := after .classifyRequest (withHead ready (marker 0xC0DE 1 0))
    p.port.responses = [{ tag := 1, code := .done, data := [] }] ∧ (chan p 0).epoch = 2 ∧ (chan p 0).resolved = 1 ∧
      eventSet p .commitDone = true := by decide +kernel

theorem test_read_answered :
    (after (.ptAnswerDone 0 [1, 2]) (withIssued ready (engineRead (.plain 4) 0x1000 2))).port.responses =
      [{ tag := 4, code := .done, data := [1, 2] }] := by decide +kernel

theorem test_write_failed :
    eventSet (after (.ptAnswerFailed 0) (withIssued ready (passThrough (writeReq 4 0x1000 2) (.plain 4)))) .dataFault =
      true := by decide +kernel

/-- An entry in COPYING whose copy read holds tag 0. -/
def copying : Part :=
  let p := withHold ready [entry 5 (writeReq 5 0x3000 4) .copying .copying]
  withIssued { p with slots := setAt p.slots 0 (some { line := 0x3000, channel := 0, owner := some 5 }),
                      tracker := [{ line := 0x3000, channel := 0, seq := none }] } (engineRead (.copy 0) 0x3000 64)

theorem test_copy_places_undo :
    let p := after (.copyReadDone 0 (List.replicate 64 7)) copying
    p.writer.next = 2 ∧ p.arbiter.waiting.map (·.purpose) = [.record 1] ∧
      p.tracker = [{ line := 0x3000, channel := 0, seq := some 1 }] ∧ (chan p 0).records = 1 := by decide +kernel

theorem test_copy_fails :
    let p := after (.copyReadFailed 0) copying
    p.port.responses = [{ tag := 5, code := .failed, data := [] }] ∧ p.hold.queue = [] ∧ p.tracker = [] := by
  decide +kernel

/-- A record placed, its write under tag 0. -/
def recorded : Part :=
  withIssued (withJournal { ready with writer := { ready.writer with next := 2 } } [placedWrite false 1 1])
    (engineWrite (.record 1) 0x1000040 [])

theorem test_frontier_rises : (after (.recordWriteDone 0) recorded).writer.frontier = 1 := by decide +kernel

theorem test_writer_halts :
    let p := after (.recordWriteFailed 0) recorded
    p.writer.state = .halted ∧ eventSet p .writerHalted = true := by decide +kernel

theorem test_recovery_begins : (written 3 .recover configured).restore.recovery = .scanning ∧
    (written 3 .recover configured).arbiter.waiting.map (·.addr) = [0x1000000] := by decide +kernel

theorem test_format_begins : (written 3 .format configured).restore.stage = .formatHeader 1 := by decide +kernel

theorem test_start_needs_ready : (written 3 .start configured).command.last = refusedResult .start .notReady := by
  decide +kernel

theorem test_stop : (written 3 .stop ready).writer.state = .stopped ∧ (chan (written 3 .stop ready) 0).state = .idle := by
  decide +kernel

theorem test_return_segment : (written 3 (.returnSegment 0) ready).command.last = refusedResult .returnSegment .notHeld := by
  decide +kernel

theorem test_soft_reset : (written 3 .softReset ready).command.busy = .softReset := by decide +kernel

theorem test_drain_end : (after .drainEnd (written 3 .softReset ready)).command = { busy := .none, last := doneResult .softReset } ∧
    (chan (after .drainEnd (written 3 .softReset ready)) 0).code = 0xC0DE := by decide +kernel

theorem test_freeze : (after .pfailAssertion ready).writer.state = .frozen ∧
    (after .pfailNegation (after .pfailAssertion ready)).power = { frozen := true, pfail := false } := by decide +kernel

theorem test_pin_reset : after .pinReset ready = blank ∧ after .powerOnReset ready = blank := by decide +kernel

theorem test_config_refused_in_service :
    eventSet (written 0x0A (.configGroupWrite .journalId 7) ready) .configRefused = true ∧
    eventSet (written 0x11 (.regionEntryWrite .base 7) ready) .configRefused = true ∧
    eventSet (written 0x29 (.markerCodeWrite 0 7) ready) .configRefused = true ∧
    (chan (written 0x2E (.markerCodeWrite 1 7) ready) 1).code = 7 := by decide +kernel

theorem test_events : (written 0x73 (.eventSet 0x3FFFF) blank).events.flags = 0x3FFFF ∧
    (written 0x72 (.eventClear 5) (written 0x73 (.eventSet 7) blank)).events.flags = 2 ∧
    irqLow (written 0x71 (.eventEnable 2) (written 0x73 (.eventSet 2) blank)) = true := by decide +kernel

theorem test_write_frame_advances :
    (after (.registerWrite 0x02 50) (after (.commandByte 0x82) blank)).link.frame =
      .frame { isWrite := true, index := 3, capture := none } := by decide +kernel

/-- R171: the first group of a write frame goes to its start index, whatever register the row names, and the next one to the
index after it; the index wraps from 0x7F to 0x00. -/
theorem test_group_goes_to_frame_index :
    let p := after (.registerWrite 0x20 50) (after (.commandByte 0x82) blank)
    let q := after (.commandByte 0x90) configured
    (p.hold.limit, p.link.segmentIndex) = (50, 0) ∧
      (getAt (after (.eventClear 9) (after .format q)).classifier.regions 2).base = 9 ∧
      (after (.registerWrite 0x7F 0) (inWriteFrame blank 0x7F)).link.frame =
        .frame { isWrite := true, index := 0, capture := none } := by decide +kernel

/-- R171, R174: no group is carried with chip-select high, no byte of an open frame but the first is a command byte, and a
_LO register is sampled in the frame's order only. -/
theorem test_link_keeps_the_frame :
    let rd := after (.commandByte 0x18) blank
    after (.registerWrite 0x02 50) blank = blank ∧ after .softReset (withFrame ready .ignoring) = withFrame ready .ignoring ∧
      after (.commandByte 0x82) rd = rd ∧ after (.pairLoRead 0x1B) rd = rd ∧ after (.pairLoRead 0x19) blank = blank ∧
      (after (.pairLoRead 0x19) rd).link.frame = .frame { isWrite := false, index := 0x19, capture := some 0 } := by
  decide +kernel

/-- A group in a read frame writes nothing: it samples the register after it, and past a low half the captured part. -/
theorem test_read_frame_samples_next :
    let p := after (.registerWrite 0x02 50) (after (.commandByte 0x01) blank)
    p.link.frame = .frame { isWrite := false, index := 2, capture := none } ∧ p.link.sample = readRegister blank 0x02 ∧
      { p with link := blank.link } = blank := by decide +kernel

/-! ### The hypotheses of the statements can be met -/

theorem test_meets_RowWithoutItsEventChangesNothing :
    let full := { blank with port := { blank.port with intake := List.replicate 16 { req := readReq 0 0 1, cls := none } } }
    let k : Classification := { cls := .strict, channel := 0, region := 2, counted := true }
    let waits := { blank with port := { blank.port with intake := [{ req := writeReq 1 0x3000 1, cls := some k }] } }
    16 ≤ full.port.intake.length ∧ (withBusy blank .softReset).command.busy = .softReset ∧
      getAt blank.arbiter.issued 31 = none ∧ blank.port.intake = [] ∧
      waits.port.intake = { req := writeReq 1 0x3000 1, cls := some k } :: [] ∧
      getAt (withIssued ready (engineRead (.plain 4) 0x1000 2)).arbiter.issued 0 ≠ none ∧
      (∀ tag, holdEntry ready tag = none) ∧ (∀ c, (chan ready c).marker = none) ∧ (0x1A : BitVec 7) ∉ pairLoIndexes ∧
      ready.command.busy ≠ .softReset := by decide +kernel

theorem test_meets_TagInUseIsDiscarded :
    let p := { blank with port := { blank.port with tags := setAt blank.port.tags 15 true } }
    p.port.intake.length < 16 ∧ p.command.busy ≠ .softReset ∧ getAt p.port.tags 15 = true := by decide +kernel

theorem test_meets_MalformedRequestIsRefused :
    blank.port.intake.length < 16 ∧ blank.command.busy ≠ .softReset ∧ getAt blank.port.tags 0 = false ∧
      (readReq 0 0 0).len = 0 ∧ 256 < (readReq 0 0 257).len ∧
      (readReq 0 0xFF 2).addr.toNat / 256 ≠ ((readReq 0 0xFF 2).addr.toNat + (readReq 0 0xFF 2).len - 1) / 256 ∧
      ¬ ((readReq 0 0 256).len = 0 ∨ 256 < (readReq 0 0 256).len ∨
        (readReq 0 0 256).addr.toNat / 256 ≠ ((readReq 0 0 256).addr.toNat + (readReq 0 0 256).len - 1) / 256) := by
  decide +kernel

theorem test_meets_ClassifierPasses :
    inWindow geo 0x1003FFF = true ∧ inWindow geo 0x1004000 = false ∧
      lookupRegion regions (pageOf 0x6000) = none ∧
      lookupRegion regions (pageOf 0x1FFF) = some 0 ∧ (getAt regions 0).cls = .pass ∧
      lookupRegion regions (pageOf 0x2000) = some 1 ∧ (getAt regions 1).cls = .guarded ∧
      lookupRegion regions (pageOf 0x5FFF) = some 4 ∧ (getAt regions 4).cls = .marker ∧
      ready.restore.recovery = .ready ∧ ready.classifier.geometry = geo ∧ ready.classifier.regions = regions := by
  decide +kernel

theorem test_meets_ClassifierRefuses :
    inWindow geo 0x1000000 = true ∧ inWindow geo 0xFFFFFF = false ∧
      lookupRegion regions (pageOf 0x2FFF) = some 1 ∧ (getAt regions 1).cls = .guarded ∧
      lookupRegion regions (pageOf 0x3000) = some 2 ∧ (getAt regions 2).cls.isProtected = true ∧
      configured.restore.recovery ≠ .ready ∧
      lookupRegion regions (pageOf 0x4000) = some 3 ∧ (getAt regions 3).cls = .lenient ∧ (chan ready 1).state = .idle := by
  decide +kernel

/-- What the three statements about markers share. -/
theorem test_meets_markers :
    let r := marker 0xC0DE 1 0
    let p := withHead ready r
    p.port.intake = [{ req := r, cls := none }] ∧ inWindow p.classifier.geometry r.addr.toNat = false ∧
      lookupRegion p.classifier.regions (pageOf r.addr) = some 4 ∧ (getAt p.classifier.regions 4).cls = .marker ∧
      (getAt p.classifier.regions 4).channel = 0 ∧ p.restore.recovery = .ready ∧ r.kind = .write ∧ r.len = 16 ∧
      r.addr.toNat % 16 = 0 ∧ r.enables = List.replicate 16 true ∧ wordAt r.data 0 = (chan p 0).code := by
  decide +kernel

theorem test_meets_UnrecognisedMarkerIsForwarded :
    (writeReq 1 0x5000 15).len ≠ 16 ∧ (writeReq 1 0x5001 16).addr.toNat % 16 ≠ 0 ∧
      ({ marker 0xC0DE 1 0 with enables := List.replicate 16 false } : Request).enables ≠ List.replicate 16 true ∧
      wordAt (marker 0xC0DF 1 0).data 0 ≠ (chan ready 0).code := by decide +kernel

theorem test_meets_MarkerIsTurnedDown :
    (wordAt (marker 0xC0DE 3 0).data 1 ≠ 1 ∧ wordAt (marker 0xC0DE 3 0).data 1 ≠ 2) ∧
      (chan configured 0).state ≠ .opened ∧ wordAt (marker 0xC0DE 2 2).data 2 ≠ 0 ∧
      wordAt (marker 0xC0DE 2 2).data 2 ≠ (chan ready 0).epoch ∧ (withWriter ready .halted).writer.state = .halted ∧
      (withWriter ready .frozen).writer.state = .frozen ∧ internal (withHead ready (marker 0xC0DE 3 0)) = none ∧
      internal (withHead (withWriter ready .halted) (marker 0xC0DE 1 0)) = none := by decide +kernel

theorem test_meets_MarkerIsTaken :
    (chan ready 0).state = .opened ∧ wordAt (marker 0xC0DE 1 0).data 2 = 0 ∧
      wordAt (marker 0xC0DE 2 1).data 2 = (chan ready 0).epoch ∧ ready.writer.state ≠ .halted ∧
      ready.writer.state ≠ .frozen ∧ wordAt (marker 0xC0DE 1 0).data 1 = 1 ∧ wordAt (marker 0xC0DE 2 1).data 1 = 2 := by
  decide +kernel

/-- Seven entries on another line. -/
def seven : List HoldEntry := List.replicate 7 (entry 9 (readReq 9 0x9000 1) .waitEpoch .pending)

/-- What the statements about STRICT and LENIENT requests share, for requests of channel 0 in page 0x3. -/
theorem test_meets_held_requests : ∀ r ∈ [writeReq 1 0x3000 1, readReq 1 0x3000 1],
    let p := withHead (withHold ready seven) r
    p.port.intake = [{ req := r, cls := none }] ∧ inWindow p.classifier.geometry r.addr.toNat = false ∧
      lookupRegion p.classifier.regions (pageOf r.addr) = some 2 ∧ (getAt p.classifier.regions 2).cls = .strict ∧
      (getAt p.classifier.regions 2).channel = 0 ∧ p.restore.recovery = .ready ∧ (chan p 0).state = .opened ∧
      p.writer.state ≠ .halted ∧ p.power.frozen = false ∧ sharesHeld p.hold.queue r = false ∧
      p.hold.queue.length < 8 := by decide +kernel

/-- A line that the tracker does not hold, and one whose record is not behind the frontier. -/
theorem test_meets_OpenWriteJoinsHold : ∀ tr ∈ [[], [{ line := 0x3000, channel := 0, seq := some 1 : TrackerEntry }]],
    let p := { withHold ready seven with tracker := tr }
    ∃ l ∈ coveredLines (writeReq 1 0x3000 1), l.changed = true ∧
      ∀ n ∈ trackerLookup p.tracker l.line 0, p.writer.frontier < n := by decide +kernel

/-- The part with channel 0 in a state. -/
def withChannelState (p : Part) (st : ChannelState) : Part :=
  { p with channels := setAt p.channels 0 { chan p 0 with state := st } }

/-- A write that waits in WAIT_EPOCH or WAIT_LINE, one that meets a full queue (sharing a line, or a first touch), and one
refused while HALTED or FROZEN. -/
theorem test_meets_WriteWaits :
    let own := entry 9 (writeReq 9 0x3000 4) .recording (.placed 1)
    let r := writeReq 1 0x303F 1
    let far := entry 9 (readReq 9 0x9000 1) .waitEpoch .pending
    (chan (withChannelState ready .committing) 0).state = .committing ∧
      (chan (withChannelState ready (.rollingBack .recording)) 0).state = .rollingBack .recording ∧
      sharesHeld (own :: seven) r = true ∧ 8 ≤ (own :: seven).length ∧ sharesHeld [own] r = true ∧ [own].length < 8 ∧
      sharesHeld (far :: seven) r = false ∧ 8 ≤ (far :: seven).length ∧
      (∃ l ∈ coveredLines r, l.changed = true ∧ trackerLookup ready.tracker l.line 0 = none) ∧
      (withWriter ready .halted).writer.state = .halted ∧ (withFreeze ready).power.frozen = true ∧
      (chan ready 0).state ≠ .idle := by decide +kernel

theorem test_meets_HeldReadTakesItsPath :
    let own := entry 9 (writeReq 9 0x3000 4) .recording (.placed 1)
    let k : Classification := { cls := .strict, channel := 0, region := 2, counted := false }
    let p := { withHold ready seven with
      port := { ready.port with intake := [{ req := readReq 1 0x3000 1, cls := some k }] },
      hold := { ready.hold with queue := seven, headRetry := true } }
    (∀ s, (chan p 0).state ≠ .rollingBack s) ∧ sharesHeld p.hold.queue (readReq 1 0x3000 1) = false ∧
      p.hold.headRetry = true ∧ sharesHeld (own :: seven) (readReq 1 0x3000 1) = true ∧ 8 ≤ (own :: seven).length ∧
      sharesHeld [own] (readReq 1 0x3000 1) = true ∧
      (chan (withChannelState p (.rollingBack .queued)) 0).state = .rollingBack .queued := by
  refine ⟨fun s => ?_, ?_⟩
  · cases s <;> decide +kernel
  · decide +kernel

theorem test_meets_SlotIsAssigned :
    let e := entry 5 (writeReq 5 0x3000 4) .waitCopy .pending
    let used := some { line := 0, channel := 0, owner := none }
    let p := withHold { ready with slots := setAt (setAt ready.slots 0 used) 1 used } [e]
    let full := { p with tracker := List.replicate 1024 { line := 0, channel := 1, seq := none } }
    p.writer.state = .running ∧ p.command.busy ≠ .softReset ∧ getAt p.slots 2 = none ∧
      (∀ j, j < 2 → getAt p.slots j ≠ none) ∧
      p.hold.queue.find? (fun x => x.isWrite && (x.state == .waitCopy || x.state == .copying) && !x.failed &&
        !withheld p x && x.lines.any HoldLine.isPending) = some e ∧
      (e.lines.find? HoldLine.isPending).isSome = true ∧ p.tracker.length < 1024 ∧ 1024 ≤ full.tracker.length ∧
      (withWriter p .suspended).writer.state ≠ .running := by decide +kernel

theorem test_meets_HeldWriteIsForwarded :
    let e := entry 5 (writeReq 5 0x3000 4) .recording .durable
    let p := withHold ready [e]
    p.hold.lineTest = false ∧ p.hold.queue.find? (forwardable p) = some e ∧
      let u := { entry 5 (writeReq 5 0x3000 4) .recording .pending with cls := .lenient, torn := true }
      let q := { p with channels := setAt p.channels 0 { chan p 0 with torn := true } }
      (withHold q [u]).hold.queue.find? (forwardable (withHold q [u])) = some u := by decide +kernel

/-- WAIT_LINE is left by a read, by a write whose line is DURABLE by now, and by one that needs a copy. -/
theorem test_meets_WaitLineIsLeft :
    let test := fun (e : HoldEntry) =>
      (let p := withHold { ready with tracker := [{ line := 0x3000, channel := 0, seq := some 0 }] } [e]
       { p with hold := { p.hold with lineTest := true } } : Part)
    let finds := fun (p : Part) (e : HoldEntry) =>
      p.hold.lineTest = true ∧ (∀ x ∈ p.hold.queue, forwardable p x = false) ∧ firstDurable p = none ∧
        rollbackStep p = none ∧ p.hold.queue.find? (fun x => x.state == .waitLine && olderCleared p.hold.queue x) = some e
    let rd := { entry 5 (readReq 5 0x3000 4) .waitLine .pending with epoch := none }
    let wr := entry 5 (writeReq 5 0x3000 4) .waitLine .pending
    let cold := { entry 5 (writeReq 5 0x3040 4) .waitLine .pending with
      lines := [{ line := 0x3040, changed := true, sub := .pending, untracked := false }] }
    finds (test rd) rd ∧ finds (test wr) wr ∧ finds (test cold) cold ∧
      wr.lines.map (lookedUp (test wr) 0) = [{ line := 0x3000, changed := true, sub := .durable, untracked := false }] ∧
      cold.lines.map (lookedUp (test cold) 0) = cold.lines ∧ (∀ d ∈ cold.deadline, (test cold).now ≤ d) ∧
      (∀ x ∈ (test cold).hold.queue, x.req.tag = cold.req.tag → x = cold) ∧
      (test { rd with state := .waitCopy }).hold.queue.find? (fun x => x.state == .waitLine) = none := by decide +kernel

theorem test_meets_DirectWriteGoesDown :
    let r := writeReq 1 0x3000 64
    let p := withHead { ready with tracker := [{ line := 0x3000, channel := 0, seq := some 0 }] } r
    p.port.intake = [{ req := r, cls := none }] ∧ inWindow p.classifier.geometry r.addr.toNat = false ∧
      lookupRegion p.classifier.regions (pageOf r.addr) = some 2 ∧ (getAt p.classifier.regions 2).cls = .strict ∧
      (getAt p.classifier.regions 2).channel = 0 ∧ p.restore.recovery = .ready ∧ (chan p 0).state = .opened ∧
      p.writer.state ≠ .halted ∧ p.power.frozen = false ∧ sharesHeld p.hold.queue r = false ∧
      (coveredLines r).map (·.line) = [0x3000] ∧ trackerLookup p.tracker 0x3000 0 = some 0 ∧ 0 ≤ p.writer.frontier := by
  decide +kernel

theorem test_meets_ArbiterTurnIssuesHead :
    let p := backlog .fair
    let g := p.classifier.geometry
    let pt := engineRead (.plain 1) 0x2000 64
    let rw := engineRead (.record 1) 0x1000 64
    getAt p.arbiter.issued 31 = none ∧ p.power.frozen = false ∧ p.arbiter.mode = .fair ∧
      eligibleHead g p.arbiter.waiting .pt = some (1, pt) ∧ engineHead g p.arbiter.waiting = some (0, rw) ∧
      eligibleHead g [rw] .pt = none ∧ engineHead g [rw] = some (0, rw) ∧
      eligibleHead g [pt] .pt = some (0, pt) ∧ engineHead g [pt] = none ∧
      (backlog .engineFirst).arbiter.mode = .engineFirst ∧ (withFreeze p).power.frozen = true := by decide +kernel

theorem test_meets_SameLineOrderIsKept :
    turnChoice (backlog .fair) = some (.pt, 1, engineRead (.plain 1) 0x2000 64) := by decide +kernel

theorem test_meets_pass_answers :
    (∀ u ∈ [Purpose.plain 4, .direct 4 0, .held 4],
      (getAt (withIssued ready (passThrough (writeReq 4 0x3000 4) u)).arbiter.issued 0).map (·.purpose) = some u) ∧
      (holdEntry (withHold ready [entry 4 (writeReq 4 0x3000 4) .forwarding .durable]) 4).isSome = true := by decide +kernel

theorem test_meets_RecordTakesNextNumber :
    let p := { ready with writer := { ready.writer with next := 281474976710654 } }
    (∀ k ∈ [RecordKind.undo, .commit, .abort, .torn],
      accepts p k = true ∧ fitsActive p.classifier.geometry p.writer k = true) ∧
      (activeEntry p.writer).map (·.1) = some 0 ∧ p.writer.next ≤ 281474976710654 := by decide +kernel

/-- An ACTIVE segment 0 with `used` slots used, its other segments FREE, and its next record of number n. -/
def filled (used : Nat) (n : Seq) : Part :=
  let e : SegEntry := { state := .active, first := 1, used := used, lastLen := 1, mask := 1 }
  { ready with writer := { ready.writer with next := n, table := ready.writer.table.set 0 e } }

/-- A full segment, and one with a slot for a PAD; segment 1 is the first FREE one. -/
theorem test_meets_SegmentIsOpened : ∀ used ∈ [128, 127],
    let p := filled used 126
    let e : SegEntry := { state := .active, first := 1, used := used, lastLen := 1, mask := 1 }
    let table := p.writer.table.set 0 { e with state := .closed }
    p.writer.table[0]? = some e ∧ 0 < table.length ∧ 1 = (0 + 1 + 0) % table.length ∧
      (table[1]?).map (·.state) = some .free ∧ (∀ k ∈ [RecordKind.undo, .torn], accepts p k = true ∧
        fitsActive geo p.writer k = (used == 127 && k == .torn) ∧ mayOpen p.writer k = true) ∧
      p.writer.active = some 0 := by decide +kernel

/-- The segment table with segment 0 ACTIVE but for a slot, and every other segment CLOSED: nothing can be placed. -/
def crowded : Part :=
  let p := filled 127 126
  { p with writer := { p.writer with table := p.writer.table.map fun e =>
    if e.state == .free then { e with state := .closed, mask := 1 } else e } }

/-- An entry in WAIT_SPACE whose image is placed, and one whose image is refused. -/
theorem test_meets_held_image :
    let e := entry 5 (writeReq 5 0x3000 4) .waitSpace (.held [7])
    let l : HoldLine := { line := 0x3000, changed := true, sub := .held [7], untracked := false }
    (∀ p ∈ [ready, crowded], p.writer.state = .running ∧ p.command.busy ≠ .softReset ∧
      (withHold p [e]).hold.queue.find? (fun x => x.state == .waitSpace) = some e) ∧
      e.lines.find? HoldLine.isHeld = some l ∧ (∀ y ∈ e.lines, y.line = l.line → y = l) ∧ e.failed = false ∧
      (place (withHold ready [e]) (undoRequest e 0x3000 [7])).2 = some 1 ∧ ready.writer.frontier < 1 ∧
      (place (withHold crowded [e]) (undoRequest e 0x3000 [7])).2 = none ∧
      (place (withHold crowded [e]) (undoRequest e 0x3000 [7])).1.writer.state = .running ∧
      eventSet (settle (withHold crowded [e])) .writerSuspended = true := by decide +kernel

theorem test_meets_SpaceIsHandedOut :
    let rs := [commitRequest ready 0, abortRequest ready (freshRollback 0 1)]
    let p : Part := { ready with writer := { ready.writer with state := .suspended, waiting := rs } }
    let none' := fun (q : Part) => lineTestStep q = none ∧ forwardStep q = none ∧ commitEndStep q = none ∧
      rollbackStep q = none ∧ commitAskStep q = none ∧ abortStep q = none ∧ resumeStep q = none
    p.writer.state = .suspended ∧ p.command.busy ≠ .softReset ∧ rowAllows p .undo = true ∧
      accepts p .commit = true ∧ rowAllows p .commit = true ∧ accepts p .abort = true ∧ rowAllows p .abort = true ∧
      (place { p with writer := { p.writer with waiting := [] } } (commitRequest ready 0)).2 = some 1 ∧
      (place { p with writer := { p.writer with waiting := [] } } (abortRequest ready (freshRollback 0 1))).2 = some 1 ∧
      accepts (withWriter p .frozen) .commit = false ∧ none' ready := by decide +kernel

theorem test_meets_copies :
    let e := entry 5 (writeReq 5 0x3000 4) .copying .copying
    getAt copying.slots 0 = some { line := 0x3000, channel := e.channel, owner := some e.req.tag } ∧
      (getAt copying.arbiter.issued 0).map (·.purpose) = some (.copy 0) ∧
      holdEntry copying 5 = some e ∧ (∀ x ∈ copying.hold.queue, x.req.tag = e.req.tag → x = e) ∧ e.failed = false ∧
      withheld copying e = false ∧ (∀ l ∈ e.lines, l.line = 0x3000 ∧ l.untracked = false) ∧
      copying.writer.state = .running ∧ copying.writer.frontier < 1 ∧
      (place (freeSlot (freeTag copying 0) 0) (undoRequest e 0x3000 [])).2 = some 1 := by decide +kernel

/-- An image refused, by a RUNNING and by a SUSPENDED writer, with and without another read in flight; an untracked line;
a read whose entry has left. -/
theorem test_meets_copies_otherwise :
    let line := fun (a : Addr) (st : LineState) (u : Bool) =>
      ({ line := a, changed := true, sub := st, untracked := u } : HoldLine)
    let e := { entry 5 (writeReq 5 0x3000 4) .copying .copying with
      lines := [line 0x3000 .copying true, line 0x3040 .copying false] }
    let p := { withHold crowded [e] with
      slots := setAt crowded.slots 0 (some { line := 0x3000, channel := 0, owner := some 5 }) }
    let r := place (freeSlot p 0) (undoRequest e 0x3000 [])
    holdEntry p 5 = some e ∧ withheld p e = false ∧ p.command.busy ≠ .softReset ∧ r.2 = none ∧ r.1.writer.state = .running ∧
      (place (freeSlot (withWriter p .suspended) 0) (undoRequest e 0x3000 [])).1.writer.state = .suspended ∧
      e.lines.any (fun l => l.line == 0x3000 && l.untracked) = true ∧
      e.lines.any (fun l => l.line != 0x3000 && l.sub == .copying) = true ∧
      (∀ d ∈ e.deadline, p.now ≤ d) ∧ (∃ l ∈ e.lines, l.line = 0x3000) ∧
      getAt (setAt crowded.slots 0 (some { line := 0x3000, channel := 0, owner := none })) 0 =
        some { line := 0x3000, channel := 0, owner := none } := by decide +kernel

theorem test_meets_record_answers :
    (getAt recorded.arbiter.issued 0).map (·.purpose) = some (.record 1) ∧
      (getAt (withIssued ready (engineWrite (.header 0) 0 [])).arbiter.issued 0).map (·.purpose) = some (.header 0) ∧
      (∀ st ∈ [WriterState.running, .suspended, .frozen],
        ((withWriter recorded st).writer.journal.find? (isFor (.record 1))).isSome = true) ∧
      popDone 0 [placedWrite true 1 0, placedWrite false 1 0, placedWrite false 2 1] = (1, [placedWrite false 2 1]) := by
  decide +kernel

/-- A placement that would give a number past the last, in the ACTIVE segment and by opening one. -/
theorem test_meets_numbers_end :
    let a : Part := { ready with writer := { ready.writer with next := 281474976710655 } }
    let b := filled 127 281474976710654
    accepts a .undo = true ∧ (activeEntry a.writer).map (·.1) = some 0 ∧ fitsActive geo a.writer .undo = true ∧
      281474976710654 < a.writer.next ∧ accepts b .undo = true ∧ (activeEntry b.writer).map (·.1) = some 0 ∧
      fitsActive geo b.writer .undo = false ∧ mayOpen b.writer .undo = true ∧ 127 < slotsPerSegment geo ∧
      281474976710654 < b.writer.next + 1 := by decide +kernel

/-- Channel 0 with a marker whose record, if any, is number n, and as many records in its epoch. -/
def marked (action : MarkerAction) (st : ChannelState) (n : Option Seq) (records : Word) : Part :=
  let m : Marker := { tag := 1, action := action, deadline := none, record := n }
  { ready with channels := setAt ready.channels 0 { chan ready 0 with state := st, records := records, marker := some m } }

/-- Channel 0 in an abort, with a rollback in a phase. -/
def aborting (phase : RollbackPhase) (start n : Option Seq) (records : Word) : Part :=
  let p := marked .abort (.rollingBack .recording) none records
  { p with restore := { p.restore with
    rollback := some { freshRollback 0 1 with phase := phase, start := start, abortRecord := n } } }

/-- The four ends: a durable COMMIT record, a commit that left nothing, a durable ABORT record, an abort that left nothing. -/
theorem test_meets_EpochEndIsOneEvent :
    (let p := marked .commit .committing (some 0) 1
     firstDurable p = some 0 ∧ p.hold.lineTest = false ∧ p.hold.queue = [] ∧ (chan p 0).marker.isSome = true) ∧
    (let p := marked .commit .committing none 0
     firstDurable p = none ∧ rollbackStep p = none ∧ allChannels.find? (commitReady p) = some 0 ∧
        (chan p 0).records = 0 ∧ (chan p 0).torn = false) ∧
    (let p := aborting .recording (some 0) (some 0) 1
     firstDurable p = none ∧ (p.restore.rollback.map (·.abortRecord)) = some (some 0) ∧ 0 ≤ p.writer.frontier) ∧
    (let p := aborting .draining (some 0) none 0
     firstDurable p = none ∧ (p.restore.rollback.map (·.phase)) = some .draining ∧ (chan p 0).records = 0) := by
  decide +kernel

/-- A commit that completes stays DONE when the LENIENT write it releases halts the writer (R32, R192, log 44). -/
theorem test_commit_done_before_release_halts :
    let e := { entry 9 (writeReq 9 0x4000 4) .waitEpoch .pending with cls := .lenient, deadline := some 0, epoch := none }
    let own := entry 8 (writeReq 8 0x4000 4) .forwarding .durable
    let p := marked .commit .committing (some 0) 1
    let q := commitEnd { withHold p [own, e] with now := 1, writer := { p.writer with next := 281474976710655 } } 0
    q.writer.state = .halted ∧ (chan q 0).last.result = .done ∧ (chan q 0).summary.outcome = .committed ∧
      q.port.responses.map (fun x => (x.tag, x.code)) = [(9, .refused), (1, .done)] := by decide +kernel

/-- Two commits become durable in one step: the release of the first halts the writer, and the second ends DONE (R32, log
52). -/
theorem test_second_commit_done_when_first_halts :
    let e := { entry 9 (writeReq 9 0x4000 4) .waitEpoch .pending with cls := .lenient, deadline := some 0, epoch := none }
    let own := entry 8 (writeReq 8 0x4000 4) .forwarding .durable
    let m : Marker := { tag := 2, action := .commit, deadline := none, record := some 2 }
    let p := marked .commit .committing (some 1) 1
    let q := withHold (withJournal p [placedWrite false 1 1, placedWrite false 2 0]) [own, e]
    let s := after (.recordWriteDone 0) (withIssued { q with
      now := 1, writer := { q.writer with next := 281474976710655 },
      channels := setAt q.channels 1 { chan q 1 with state := .committing, epoch := 1, records := 1, marker := some m } }
      (engineWrite (.record 1) 0 []))
    s.writer.state = .halted ∧ s.writer.frontier = 2 ∧ (chan s 1).last.result = .done ∧ (chan s 1).resolved = 1 ∧
      s.port.responses.map (fun x => (x.tag, x.code)) = [(9, .refused), (1, .done), (2, .done)] := by decide +kernel

/-- The halt of a record write: a commit in progress FAILED, a waiting write REFUSED, the tracker empty, the channel of the
abort queue in RECORDING (R101, R102, R125). -/
theorem test_halt_answers :
    let m : Marker := { tag := 2, action := .abort, deadline := none, record := none }
    let p := marked .commit .committing none 1
    let q := withHold (withJournal p [placedWrite false 1 1]) [entry 9 (writeReq 9 0x3000 4) .waitLine .pending]
    let s := after (.recordWriteFailed 0) (withIssued { q with
      tracker := [{ line := 0x3000, channel := 0, seq := some 1 }],
      channels := setAt q.channels 1 { chan q 1 with state := .rollingBack .queued, epoch := 1, marker := some m },
      restore := { q.restore with abortQueue := [1] } } (engineWrite (.record 1) 0 []))
    s.writer.state = .halted ∧ s.tracker = [] ∧ s.hold.queue = [] ∧ s.restore.abortQueue = [] ∧
      (chan s 0).last.reason = .writerHalted ∧ (chan s 1).state = .rollingBack .recording ∧
      s.port.responses.map (fun x => (x.tag, x.code)) = [(1, .failed), (2, .failed), (9, .refused)] := by decide +kernel

/-- A rollback of channel 0 in RESTORING, its transfer under tag 0. -/
def walking (st : WalkStage) : Part :=
  let m : Marker := { tag := 1, action := .abort, deadline := none, record := none }
  let x : Rollback :=
    { channel := 0, epoch := 1, phase := .restoring, start := some 2,
      walk := [{ seg := 0, startSlot := 5, first := 1, endsAtS := true },
               { seg := 1, startSlot := 2, first := 0, endsAtS := false }],
      cursor := some { slot := 5, expected := none }, fault := false, found := 1, abortRecord := none, stage := st }
  let ch : Channel := { chan ready 0 with state := .rollingBack .restoring, records := 2, marker := some m }
  let p := { ready with channels := setAt ready.channels 0 ch }
  withIssued { p with restore := { p.restore with rollback := some x } } (engineRead (.rollback 0) 0 64)

/-- The header of an UNDO record of channel 0 and epoch 1, number 2, at slot 5. -/
def undoHeader : HeaderSlot :=
  placedHeader geo.identity
    { kind := .undo, channel := 0, epoch := 1, torn := false, fault := false, overflowed := false, line := 0x3000,
      region := 2, image := List.replicate 64 7, undoCount := 0 } 2 3 3

theorem test_meets_walk :
    (∀ st ∈ [WalkStage.header, .payload undoHeader [.waiting], .restore undoHeader],
      (chan (walking st) 0).marker.isSome = true ∧ (walking st).restore.rollback.map (·.stage) = some st) ∧
      headerOfBytes undoHeader.bytes = undoHeader ∧ headerShape undoHeader 5 128 = true ∧ undoHeader.seq = 2 ∧
      undoHeader.kind = some .undo ∧ undoHeader.channel = 0 ∧ undoHeader.epoch = 1 ∧
      checkMatches geo.identity undoHeader (payloadWords (List.replicate 64 7)) = true ∧
      inWindow geo undoHeader.line.toNat = false ∧ undoHeader.backLink = 3 ∧ 2 + undoHeader.backLink ≤ 5 := by
  decide +kernel

theorem test_meets_walk_sequence : ((walking .header).restore.rollback.bind fun x => x.walk.head?.map fun s =>
    walkSeqOk x s none undoHeader.seq) = some true := by decide +kernel

/-- What the clauses of the walk ask of a record, besides: one of another epoch, one that fails its test, a payload that was
not read, a check word that does not match; a record whose step ends the walk, one that is its segment's first, one whose
number is not the segment's first, one whose back-link leads below slot 2. -/
theorem test_meets_walk_goes_on :
    let other := placedHeader geo.identity
      { kind := .undo, channel := 0, epoch := 2, torn := false, fault := false, overflowed := false, line := 0x3000,
        region := 2, image := [], undoCount := 0 } 2 3 3
    let link := fun (n : Seq) (b : Nat) => placedHeader geo.identity
      { kind := .undo, channel := 0, epoch := 1, torn := false, fault := false, overflowed := false, line := 0x1000000,
        region := 2, image := [], undoCount := 0 } n 3 b
    headerShape other 5 128 = true ∧ other.kind = some .undo ∧ ¬ (other.channel = 0 ∧ other.epoch = 1) ∧
      headerShape (headerOfBytes []) 5 128 = false ∧ Piece.failed ∈ ([Piece.waiting].set 0 .failed) ∧
      Piece.waiting ∉ ([Piece.waiting].set 0 .failed) ∧ Piece.waiting ∈ ([Piece.waiting, .waiting].set 0 (.done [1])) ∧
      checkMatches geo.identity undoHeader (payloadWords (List.replicate 64 8)) = false ∧
      inWindow geo (link 1 0).line.toNat = true ∧ (link 1 0).backLink = 0 ∧ (link 1 0).seq = 1 ∧ (link 2 0).seq ≠ 1 ∧
      5 < 2 + (link 2 4).backLink ∧ (chan (walking .header) 0).records.toNat = 2 ∧
      (walking .header).restore.rollback.map (·.found) = some 1 := by decide +kernel

/-- An abort of channel 0 at the head of the queue, with an entry that is refused and one whose copy read is in flight. -/
def abortQueued : Part :=
  let copy := entry 6 (writeReq 6 0x3000 4) .copying .copying
  let p := withHold (marked .abort (.rollingBack .queued) none 1) [entry 5 (writeReq 5 0x3000 4) .waitSpace (.held [7]), copy]
  { p with restore := { p.restore with abortQueue := [0] } }

/-- The drain begins; the walk list of the table as it stands; what may follow the drain. -/
theorem test_meets_RollbackIsStarted :
    abortQueued.restore.rollback = none ∧ abortQueued.restore.abortQueue = 0 :: [] ∧
      abortQueued.writer.state = .running ∧ abortQueued.command.busy ≠ .softReset ∧ abortQueued.power.frozen = false ∧
      (abortQueued.hold.queue.map fun x => x.req.tag).Nodup ∧
      (abortStep abortQueued).map (fun p => (p.hold.queue.map (·.req.tag), p.port.responses.map (·.code))) =
        some ([6], [.refused]) ∧
      (let p := aborting .draining none none 1
       (p.restore.rollback.map (·.start)) = some none ∧ (chan p 0).marker.isSome = true ∧ p.hold.queue = [] ∧
        (chan p 0).outstanding = 0 ∧ (withHold p abortQueued.hold.queue).hold.queue ≠ []) ∧
      walkList (filled 8 3) 0 2 = [{ seg := 0, startSlot := 7, first := 1, endsAtS := true }] ∧
      (let p := aborting .draining (some 0) none 1
       0 ≤ p.writer.frontier ∧ (chan p 0).records ≠ 0 ∧ (p.restore.rollback.map (·.found)) = some 0) ∧
      (aborting .draining (some 1) none 1).writer.frontier < 1 := by decide +kernel

theorem test_meets_all_answered : ∀ y ∈ ([Piece.waiting].set 0 (.done [1])), ∃ d, y = .done d := by
  intro y hy
  exact ⟨[1], by simpa using hy⟩

theorem test_meets_recovery :
    (∀ x ∈ [(BusyCommand.recover, RecoveryStage.scanHeader 0), (.recover, .backHeader 0 5 2),
        (.recover, .backPayload 0 5 2 undoHeader [.waiting]), (.recover, .backWrite 0 5 2 undoHeader),
        (.softReset, .scanSlot 0 2 1), (.softReset, .backWrite 0 5 2 undoHeader),
        (.format, .formatHeader 1), (.format, .formatHeader 3), (.format, .activeHeader 0)],
      (withStage configured x.1 x.2).command.busy = x.1 ∧ (withStage configured x.1 x.2).restore.stage = x.2 ∧
        (withStage configured x.1 x.2).power.frozen = false) ∧
      segmentHeaderValid geo 0 [] = false ∧ (usableSegments geo).find? (fun x => decide (0 < x)) = some 1 ∧
      (usableSegments geo).tail.filter (fun x => decide (1 < x)) = [2, 3] ∧
      (usableSegments geo).tail.filter (fun x => decide (3 < x)) = [] ∧ (usableSegments geo).head? = some 0 ∧
      (∀ c, (getAt configured.restore.report.channels c).resolved = 0) := by decide +kernel

/-- The bytes of a segment header of segment 0, EMPTY or USED. -/
def header0 (active : Bool) : List Byte := segmentHeaderBytes geo 0 active 1 (Vector.replicate 4 3)

theorem test_meets_ScanHeaderIsTaken :
    segmentHeaderValid geo 0 (header0 false) = true ∧ segmentHeaderUsed (header0 false) = false ∧
      segmentHeaderValid geo 0 (header0 true) = true ∧ segmentHeaderUsed (header0 true) = true ∧
      2 < slotsPerSegment geo ∧ segmentHeaderValid geo 0 [] = false ∧
      (usableSegments geo).find? (fun x => decide (0 < x)) = some 1 := by decide +kernel

/-- A record of number 1 at slot 2 of segment 0. -/
def record1 (k : RecordKind) (slot : Nat) : HeaderSlot :=
  placedHeader geo.identity
    { kind := k, channel := 0, epoch := 4, torn := false, fault := false, overflowed := false, line := 0x3000, region := 2,
      image := List.replicate 64 7, undoCount := 0 } 1 (lengthFieldOf k (128 - slot)) 0

/-- A UNDO header that begins a whole read, and records of every kind that pass their test; past the end one that is FULL. -/
theorem test_meets_ScanRecordIsTaken :
    headerOfBytes (record1 .undo 2).bytes = record1 .undo 2 ∧ (record1 .undo 2).kind = some .undo ∧ 2 + 3 ≤ slotsPerSegment geo ∧
      recordValid geo.identity (record1 .undo 2) (List.replicate 64 7) 2 (slotsPerSegment geo) 1 = true ∧
      (∀ k ∈ [RecordKind.commit, .abort, .torn, .pad], (record1 k 127).kind = some k ∧
        recordValid geo.identity (record1 k 127) [] 127 (slotsPerSegment geo) 1 = true) ∧
      recordValid geo.identity (record1 .commit 2) [] 2 (slotsPerSegment geo) 2 = false ∧
      ([Piece.waiting, .waiting].set 0 (.done [1])).any (· == .waiting) = true ∧
      (withStage configured .recover (.scanRecord 0 2 1 [.waiting])).restore.stage = .scanRecord 0 2 1 [.waiting] ∧
      (withStage configured .recover (.scanSlot 0 2 1)).restore.stage = .scanSlot 0 2 1 := by decide +kernel

/-- RESTORING: a header that fails its test, one stepped over, a payload that was not read, a line of the journal area; the
next segment's last record. -/
theorem test_meets_RestoringRestoresLine :
    let tables := { configured.restore.tables with
      segments := [SegmentScan.notRead, { SegmentScan.notRead with status := .used, first := 1, last := some (1, 2) }] }
    headerShape (headerOfBytes []) 5 (slotsPerSegment geo) = false ∧ undoHeader.seq ≠ 3 ∧
      undoHeader.epoch.toNat ≤ (1 : Epoch).toNat ∧ (0 : Epoch).toNat < undoHeader.epoch.toNat ∧
      Piece.failed ∈ ([Piece.waiting].set 0 .failed) ∧ Piece.waiting ∉ ([Piece.waiting].set 0 .failed) ∧
      checkMatches geo.identity undoHeader (payloadWords (List.replicate 64 8)) = false ∧
      inWindow geo 0x1000000 = true ∧ undoHeader.backLink ≠ 0 ∧ 2 + undoHeader.backLink ≤ 5 ∧ 4 < 2 + undoHeader.backLink ∧
      (record1 .undo 2).backLink = 0 ∧ (tables.segments.getD 1 SegmentScan.notRead).last = some (1, 2) ∧
      configured.restore.left = [] ∧ configured.restore.tables.highestSeq + 1 ≤ 281474976710654 := by decide +kernel

/-- A record read that a block boundary splits is presented one piece at a time (R133). -/
theorem test_scan_reads_one_piece_at_a_time :
    let p := withStage configured .recover (.scanSlot 0 7 1)
    let q := after (.scanReadAnswered 0 (.done (record1 .undo 7).bytes)) p
    (freshPieces (slotAddr geo 0 7) 96).length = 2 ∧ q.arbiter.waiting.map (·.purpose) = [.recovery 0] ∧
      q.restore.stage = .scanRecord 0 7 1 [.waiting, .waiting] := by decide +kernel

/-- Recovery's tables after segments 0 to 2, with segment 0 USED and `count` records accepted. -/
def scanned (valid : Nat) (segs : List SegmentScan) (saved : Option Epoch) (highest : Seq) : RecoveryTables :=
  { segments := segs,
    channels := setAt (Vector.replicate 4 ChannelScan.cleared) 0 { ChannelScan.cleared with highestSaved := saved },
    validHeaders := valid, usedHeaders := 1, highestSeq := highest }

theorem test_meets_ScanEndsWithChecks :
    let used := fun (first n : Seq) (e : Option Epoch) =>
      { SegmentScan.notRead with status := .used, first := first, last := some (n, 2),
                                 highest := setAt SegmentScan.notRead.highest 0 e }
    let clean := scanned 1 [used 1 1 none, SegmentScan.notRead] none 1
    let late := scanned 1 [used 1 1 none, SegmentScan.notRead] none 281474976710654
    let clash := scanned 2 [used 1 2 none, used 2 3 none] none 3
    let open' := scanned 1 [SegmentScan.notRead, used 1 1 (some 4)] (some 4) 1
    (usableSegments geo).find? (fun x => decide (3 < x)) = none ∧ segmentHeaderValid geo 3 [] = false ∧
      segmentHeaderValid geo 3 (segmentHeaderBytes geo 3 false 0 (Vector.replicate 4 0)) = true ∧
      segmentHeaderUsed (segmentHeaderBytes geo 3 false 0 (Vector.replicate 4 0)) = false ∧
      slotsPerSegment geo ≤ 127 + 1 ∧ slotsPerSegment geo ≤ 125 + 3 ∧
      (scanned 0 [] none 0).validHeaders = 0 ∧ clean.validHeaders ≠ 0 ∧ overlappingClaims (claims clean) = none ∧
      (∀ x ∈ clean.segments, ∀ c, exceeds (getAt x.highest c) (derivedResolved (getAt clean.channels c)) = false) ∧
      clean.highestSeq + 1 ≤ 281474976710654 ∧ 281474976710654 < late.highestSeq + 1 ∧
      overlappingClaims (claims clash) = some (0, 1) ∧ overlappingClaims (claims open') = none ∧
      restoreOrder { configured with restore := { configured.restore with tables := open' } } = [1] ∧
      (open'.segments.getD 1 SegmentScan.notRead).last = some (1, 2) := by decide +kernel

theorem test_meets_ReadyIsReached : ∀ x ∈ [BusyCommand.recover, .format],
    (withStage configured x (.activeHeader 0)).command.busy = x ∧
      (withStage configured x (.activeHeader 0)).restore.stage = .activeHeader 0 ∧
      (withStage configured x (.activeHeader 0)).power.frozen = false := by decide +kernel

/-- A LENIENT write in a waiting state: the TORN record is placed; in the mark's case the torn flag is set; with the writer
STOPPED there is no record. -/
theorem test_meets_TornPathIsTaken : ∀ st ∈ [EntryState.waitLine, .waitCopy, .waitSpace],
    let e := { entry 5 (writeReq 5 0x3000 4) st .pending with cls := .lenient }
    let p := withHold ready [e]
    holdEntry p 5 = some e ∧ e.deadline = some 10 ∧ e.failed = false ∧ e.cls = .lenient ∧ e.req.kind = .write ∧
      (chan p 0).torn = false ∧ (chan p 0).tornRecord = none ∧ (place p (tornRequest e)).2 = some 1 ∧
      place (withWriter p .stopped) (tornRequest e) = (withWriter p .stopped, none) ∧
      (chan { p with channels := setAt p.channels 0 { chan p 0 with torn := true } } 0).torn = true := by decide +kernel

theorem test_meets_ExpiredEntryIsRefused : ∀ st ∈ [EntryState.waitEpoch, .waitLine, .waitCopy, .waitSpace],
    let e := entry 5 (writeReq 5 0x3000 4) st .pending
    holdEntry (withHold ready [e]) 5 = some e ∧ e.deadline = some 10 ∧ e.failed = false ∧ e.cls ≠ .lenient := by
  decide +kernel

theorem test_meets_CommitIsGivenUp :
    let m : Marker := { tag := 1, action := .commit, deadline := some 0, record := none }
    (chan { ready with channels := setAt ready.channels 3 { chan ready 3 with marker := some m } } 3).marker = some m := by
  decide +kernel

theorem test_meets_command_slot :
    let configured := inWriteFrame configured 3
    let ready := inWriteFrame ready 3
    configured.link.writesAt 3 = true ∧ ready.link.writesAt 3 = true ∧ (withBusy configured .recover).command.busy ≠ .none ∧ configured.power.frozen = false ∧
      configured.restore.recovery = .unrecovered ∧ geometryCheck configured = none ∧
      (usableSegments configured.classifier.geometry).tail = [1, 2, 3] ∧
      ({ configured with restore := { configured.restore with recovery := .failed } } : Part).restore.recovery = .failed ∧
      (withWriter ready .stopped).writer.state = .stopped ∧ geometryCheck ready = none ∧
      (∀ c, (chan ready c).state = .idle ∨ ((chan ready c).state = .opened ∧ (chan ready c).records = 0 ∧
        (chan ready c).torn = false ∧ (chan ready c).tornRecord = none ∧ (chan ready c).outstanding = 0)) ∧
      ready.hold.queue = [] := by decide +kernel

/-- The geometry check stops at each of its conditions, and each command at each of its own. -/
theorem test_meets_RefusedCommandIsRecorded :
    let configured := inWriteFrame configured 3
    let ready := inWriteFrame ready 3
    let with' := fun (g : Geometry) => ({ configured with classifier := { configured.classifier with geometry := g } } : Part)
    let clash := { configured with classifier := { configured.classifier with
      regions := setAt regions 7 (region 0x1003 .strict 0) } }
    [with' { geo with sizeCode := 5 }, with' { geo with count := 3 }, with' { geo with count := 65 },
        with' { geo with base := 0xFFFFFF, count := 64 }, with' { geo with exclude := 3 }, clash, configured].map geometryCheck =
      [some (.sizeCode, 0), some (.segmentCount, 0), some (.segmentCount, 0), some (.areaRange, 0),
        some (.usableSegments, 0), some (.regionOverlap, 7), none] ∧
      configured.link.writesAt 3 = true ∧ ready.link.writesAt 3 = true ∧
      configured.command.busy = .none ∧ (withFreeze configured).power.frozen = true ∧ ready.restore.recovery ≠ .unrecovered ∧
      ready.restore.recovery ≠ .failed ∧ ready.writer.state ≠ .stopped ∧ configured.writer.state = .stopped ∧
      configured.restore.recovery ≠ .ready ∧ configured.writer.state ≠ .running ∧ configured.writer.state ≠ .suspended ∧
      (chan (withChannelState ready .committing) 0).state ≠ .opened ∧ (withHold ready seven).hold.queue ≠ [] ∧
      configured.classifier.inForce = false ∧ ready.classifier.inForce = true ∧
      ready.classifier.geometry.count.toNat ≤ (63 : Fin 64).val ∧ (2 : Fin 64).val < ready.classifier.geometry.count.toNat ∧
      (∀ e ∈ ready.writer.table[(2 : Nat)]?, e.state ≠ .held) := by decide +kernel

theorem test_meets_ReturnedSegmentIsFree :
    let e : SegEntry := { state := .held, first := 1, used := 128, lastLen := 3, mask := 0 }
    let p := inWriteFrame { ready with writer := { ready.writer with table := ready.writer.table.set 3 e } } 3
    p.link.writesAt 3 = true ∧ p.command.busy = .none ∧ p.classifier.inForce = true ∧ 3 < p.classifier.geometry.count.toNat ∧ p.writer.table[3]? = some e := by decide +kernel

theorem test_meets_DrainEndResetsBlocks :
    let p := withBusy (withJournal ready [placedWrite false 1 1]) .softReset
    p.command.busy = .softReset ∧ p.power.pfail = false ∧ (withFreeze p).power.pfail = true ∧
      (∀ t, getAt p.port.tags t = false) ∧ p.arbiter.waiting = [] ∧
      (∀ t, getAt p.arbiter.issued t = none) ∧ ∀ j ∈ p.writer.journal, j.presented = true := by decide +kernel

/-- The drain of a soft reset answers the intake queue, an entry and a commit, and keeps what is on its way. -/
theorem test_soft_reset_answers :
    let p := withHold (marked .commit .committing none 1)
      [entry 8 (writeReq 8 0x3000 4) .forwarding .durable, entry 9 (writeReq 9 0x3000 4) .waitLine .pending]
    let q := written 3 .softReset (withHead p (readReq 3 0x1000 8))
    q.port.intake = [] ∧ q.hold.queue.map (·.req.tag) = [8] ∧ (chan q 0).last.reason = .softReset ∧
      q.port.responses.map (fun x => (x.tag, x.code)) = [(3, .refused), (9, .refused), (1, .refused)] := by decide +kernel

/-- The freeze answers a commit and the writes that wait; a read stays. -/
theorem test_freeze_answers :
    let p := withHold (marked .commit .committing none 1)
      [entry 8 (readReq 8 0x3000 4) .waitLine .pending, entry 9 (writeReq 9 0x3000 4) .waitCopy .pending]
    let q := after .pfailAssertion p
    q.hold.queue.map (·.req.tag) = [8] ∧ (chan q 0).last.reason = .frozen ∧
      q.port.responses.map (fun x => (x.tag, x.code)) = [(1, .refused), (9, .refused)] := by decide +kernel

theorem test_meets_power : ready.power.pfail = false ∧ (withFreeze ready).power.pfail = true ∧
    (withFreeze ready).power.frozen = true ∧ ready.power.frozen = false ∧
    ∀ x ∈ [(BusyCommand.recover, RecoveryStage.backHeader 0 5 2), (.format, .formatHeader 1)],
      (withFreeze (withStage configured x.1 x.2)).command.busy = x.1 ∧
        (withFreeze (withStage configured x.1 x.2)).power.frozen = true := by decide +kernel

theorem test_meets_config : ∀ i ∈ [0x08, 0x09, 0x0A, 0x0B, 0x0C, 0x11, 0x12, 0x13, 0x28, 0x29, 0x37, 0x38],
    let configured := inWriteFrame configured i
    let ready := inWriteFrame ready i
    configured.link.writesAt i = true ∧ ready.link.writesAt i = true ∧ configured.writer.state = .stopped ∧ configured.command.busy = .none ∧ configured.classifier.inForce = false ∧
      ready.writer.state ≠ .stopped ∧ (withBusy configured .format).command.busy ≠ .none ∧
      (putInForce configured).classifier.inForce = true ∧ ConfigReg.journalId ≠ .channelControl 0 ∧
      classOfCode ((0x8#32 : Word).extractLsb' 1 3).toNat = some .marker ∧
      classOfCode ((0xA#32 : Word).extractLsb' 1 3).toNat = none ∧
      (chan ready 1).state = .idle ∧ (chan ready 0).state ≠ .idle := by decide +kernel

theorem test_meets_link :
    blank.link.writesAt 0 = false ∧ (withFrame blank .ignoring).link.writesAt 0 = false ∧
      (withFrame blank (.frame { isWrite := false, index := 0, capture := none })).link.writesAt 0 = false ∧
      (inWriteFrame blank 1).link.writesAt 0 = false ∧
      (∀ i ∈ [0x00, 0x01, 0x02, 0x10, 0x20, 0x40, 0x51, 0x71, 0x72, 0x73, 0x7F], (inWriteFrame blank i).link.writesAt i = true) ∧
      (∀ r ∈ [RegionReg.base, .limit, .control],
        (inWriteFrame configured (regionRegIndex r)).link.writesAt (regionRegIndex r) = true) ∧
      (∀ r ∈ [ConfigReg.journalBase, .journalGeometry, .journalId, .excludeLo, .excludeHi, .channelControl 3],
        (inWriteFrame configured (configRegIndex r)).link.writesAt (configRegIndex r) = true) ∧
      (inWriteFrame ready (markerCodeIndex 3)).link.writesAt (markerCodeIndex 3) = true ∧ (0x80#8 : Byte).getLsbD 7 = true ∧ (0x7F#8 : Byte).getLsbD 7 = false ∧
      (0x5B#7 ∈ pairLoIndexes) ∧ (0x5A#7 + 1 = 0x5B#7) ∧ (0x5B#8 : Byte).extractLsb' 0 7 = 0x5B ∧ blank.link.frame = .idle ∧
      ([1, 2, 3, 4, 5, 6, 7, 0] : List Word).map (·.extractLsb' 0 3) = [1, 2, 3, 4, 5, 6, 7, 0] := by decide +kernel

theorem test_meets_RecordReadsBack : ∀ k ∈ [RecordKind.undo, .commit, .abort, .torn, .pad],
    281474976710655 < 2 ^ 48 ∧ 255 < 256 ∧ 125 + recordSlots k (128 - 125) ≤ 128 := by decide

theorem test_meets_SegmentHeaderReadsBack : 63 < 64 ∧ 281474976710655 < 2 ^ 48 ∧
    (segmentHeaderBytes geo 63 true 1 (Vector.replicate 4 0)).length = 64 := by decide +kernel

/-- The segment window on a segment of the table and on none. -/
theorem test_meets_StatusRegistersShowState :
    (ready.writer.table[ready.link.segmentIndex.val]?).isSome = true ∧ blank.writer.table[(63 : Nat)]? = none ∧
      readRegister ready 0x18 = 0x00181001 ∧ readRegister ready 0x2A = 1 := by decide +kernel

theorem test_meets_StepKeepsSound : State.reset.part.port.intake.length ≤ 16 ∧ State.reset.part.hold.queue.length ≤ 8 ∧
    State.reset.part.tracker.length ≤ 1024 ∧ State.reset.part.power.frozen = false := by decide

/-! ### The hypotheses of the further clauses can be met -/

theorem test_meets_window_and_table :
    [geo, { geo with sizeCode := 5 }, { geo with count := 3 }, { geo with base := 0xFFFFFF, count := 64 }].map
        (fun g => inWindow g (g.base.toNat * 65536)) = [true, false, false, false] ∧
      inWindow geo 0x1003FFF = true ∧ inWindow geo 0x1004000 = false ∧
      lookupRegion regions (pageOf 0x5000) = some 4 ∧
      lookupRegion (setAt regions 7 (region 5 .strict 0)) (pageOf 0x5000) = some 4 ∧
      lookupRegion (setAt regions 4 { getAt regions 4 with enabled := false }) (pageOf 0x5000) = none := by decide +kernel

/-- A write whose second byte, on the next line, is not enabled; reads on each side of a line's end; a line without a number. -/
theorem test_meets_lines :
    (coveredLines { writeReq 1 0x303F 2 with enables := [true, false] }).map (fun l => (l.line, l.changed)) =
        [(0x3000, true), (0x3040, false)] ∧
      requestsShare (readReq 1 0x303F 1) (readReq 2 0x3000 1) = true ∧
      requestsShare (readReq 1 0x303F 1) (readReq 2 0x3040 1) = false ∧
      requestsShare (readReq 1 0x303F 2) (readReq 2 0x3040 1) = true ∧
      trackerLookup [{ line := 0x3000, channel := 0, seq := none }] 0x3000 0 = none ∧
      trackerLookup [{ line := 0x3000, channel := 0, seq := some 3 }] 0x3000 1 = none ∧
      trackerLookup [{ line := 0x3000, channel := 0, seq := some 3 }] 0x3000 0 = some 3 := by decide +kernel

/-- A part whose intake queue has a classified request of channel 0 at its head that is due to be taken again. -/
def retrying (p : Part) (q : List HoldEntry) (r : Request) : Part :=
  let k : Classification := { cls := .strict, channel := 0, region := 2, counted := false }
  { p with port := { p.port with intake := [{ req := r, cls := some k }] }, hold := { p.hold with queue := q, headRetry := true } }

/-- What a head retry leaves: the states of the entries joined, the answers, and the requests of the intake queue
(9 stands for no step). -/
def retried (p : Part) (q : List HoldEntry) (r : Request) : List EntryState × List RespCode × Nat :=
  let stays : Part := { blank with port := { blank.port with intake := List.replicate 9 { req := r, cls := none } } }
  let x := (headRetryStep (retrying p q r)).getD stays
  ((x.hold.queue.drop q.length).map (·.state), x.port.responses.map (·.code), x.port.intake.length)

/-- The head taken again: each case of a write (O11) and of a read that still needs an entry (O12). -/
theorem test_meets_head_retry :
    let own := entry 9 (writeReq 9 0x3000 4) .recording (.placed 1)
    let r := writeReq 1 0x303F 1
    let known := fun (n : Seq) => ({ ready with tracker := [{ line := 0x3000, channel := 0, seq := some n }] } : Part)
    let back := withChannelState ready (.rollingBack .queued)
    [withWriter ready .halted, withFreeze ready, withChannelState ready .idle].map (retried · [] r) =
        List.replicate 3 ([], [.refused], 0) ∧
      [retried (withChannelState ready .committing) seven r, retried ready [own] r, retried (known 0) seven r,
          retried (known 1) seven r, retried ready seven r, retried ready (own :: seven) r, retried back (own :: seven) r] =
        [([.waitEpoch], [], 0), ([.waitLine], [], 0), ([], [], 0), ([.recording], [], 0),
          ([.waitCopy], [], 0), ([], [], 1), ([], [], 1)] ∧
      [(ready, [own]), (back, seven), (ready, own :: seven)].map (fun x => retried x.1 x.2 (readReq 1 0x303F 1)) =
        [([.waitLine], [], 0), ([.waitEpoch], [], 0), ([], [], 1)] := by decide +kernel

/-- The heads of two requesters of the engine group, and of all three; a request kept back; a transfer that crosses a block. -/
theorem test_meets_engine_order :
    let rw := engineRead (.record 1) 0x1000000 64
    let cr := engineRead (.copy 0) 0x3000 64
    let rs := engineRead (.rollback 0) 0x1000040 64
    let pt := engineRead (.plain 1) 0x1000000 64
    let head := fun (ws : List DownReq) => (engineHead geo ws).map (·.1)
    head [rs, cr, rw] = some 2 ∧ head [rs, cr] = some 1 ∧ head [rs] = some 0 ∧ head [pt] = none ∧
      eligibleHead geo [engineRead (.plain 1) 0x3000 64, cr] .cr = none ∧ holdsBack geo pt rw = false ∧
      holdsBack geo rw pt = false ∧ holdsBack geo pt { rs with addr := 0x1000000 } = true ∧
      (readPieces .rollback 0x10000E0 96).map (·.len) = [32, 64] ∧ (readPieces .rollback 0x10000A0 96).map (·.len) = [96] := by
  decide +kernel

/-- An ACTIVE segment with `used` slots used, and `free` FREE segments; the others CLOSED. -/
def placing (used free : Nat) : Part :=
  let p := filled used 126
  { p with writer := { p.writer with
      table := p.writer.table.mapIdx fun i e => if i = 0 ∨ i ≤ free then e else { e with state := .closed, mask := 1 } } }

/-- Both sides of every limit of R94's table: the kind, the slots used of 128, the FREE segments, whether the record fits the
ACTIVE segment, and whether it may open another. -/
theorem test_meets_placement_table :
    ∀ x ∈ ([(.undo, 125, 1, true, false), (.undo, 126, 1, false, false), (.undo, 121, 0, true, false),
            (.undo, 122, 0, false, false), (.undo, 126, 2, false, true), (.commit, 127, 0, true, false),
            (.commit, 128, 0, false, false), (.abort, 128, 1, false, true), (.torn, 127, 1, true, true),
            (.torn, 123, 0, true, false), (.torn, 124, 0, false, false)] : List (RecordKind × Nat × Nat × Bool × Bool)),
      let p := placing x.2.1 x.2.2.1
      (activeEntry p.writer).map (·.1) = some 0 ∧ fitsActive geo p.writer x.1 = x.2.2.2.1 ∧ mayOpen p.writer x.1 = x.2.2.2.2 ∧
        rowAllows p x.1 = (x.2.2.2.1 || x.2.2.2.2) := by decide +kernel

theorem test_meets_placement_taken :
    [(withWriter ready .suspended, RecordKind.undo), (withWriter ready .suspended, .torn), (withBusy ready .softReset, .commit),
        (withWriter ready .halted, .commit), (ready, .undo)].map (fun x => accepts x.1 x.2) = [false, true, false, false, true] ∧
      (let w := fun (a : Addr) => { placedWrite false 1 1 with addr := a, bytes := List.replicate 96 0 }
       (recordRequests (w 0x10000E0)).map (·.len) = [32, 64] ∧ (recordRequests (w 0x10000A0)).map (·.len) = [96]) := by
  decide +kernel

/-- A drained commit with records whose COMMIT record is placed, waits, and halts the writer; one that an entry of its epoch
keeps, and one whose record waits already. -/
theorem test_meets_commit_asks :
    let c := marked .commit .committing none 1
    let full := { c with writer := { (placing 128 0).writer with } }
    let last := { c with writer := { c.writer with next := 281474976710655 } }
    let own := withHold c [entry 8 (writeReq 8 0x3000 4) .forwarding .durable]
    let asked := { full with writer := { full.writer with waiting := [commitRequest full 0] } }
    [c, full, last, own, asked].map (commitReady · 0) = [true, true, true, false, false] ∧
      (place c (commitRequest c 0)).2 = some 1 ∧ place full (commitRequest full 0) = (full, none) ∧
      (place last (commitRequest last 0)).2 = none ∧ (chan (place last (commitRequest last 0)).1 0).marker = none ∧
      (commitAskStep c).map (fun p => ((chan p 0).marker.map (·.record), p.writer.waiting.length)) = some (some (some 1), 0) ∧
      (commitAskStep full).map (fun p => ((chan p 0).marker.map (·.record), p.writer.waiting.length)) =
        some (some none, 1) := by decide +kernel

/-- The copied line of an entry of two lines, the other in a substate. -/
def twoLines (a b : LineState) : HoldEntry :=
  { entry 5 (writeReq 5 0x3000 128) .copying .copying with
    lines := [{ line := 0x3000, changed := true, sub := a, untracked := false },
              { line := 0x3040, changed := true, sub := b, untracked := false }] }

/-- Channel 0 in an abort's drain of epoch 1, with an entry. -/
def drainingWith (e : HoldEntry) : Part := withHold (aborting .draining none none 1) [e]

/-- An image offered: placed, refused to a RUNNING and to a SUSPENDED writer, refused for an entry that has failed or that is
withheld, and one whose placement halts the writer. Besides: a FROZEN writer, a soft reset's drain, a frontier at the record. -/
theorem test_meets_image_offered :
    let e := twoLines .copying .copying
    let offered := fun (p : Part) (e : HoldEntry) =>
      (let q := offerImage (withHold p [e]) 5 0x3000 [7]
       (q.writer.state, q.hold.queue.map fun x => x.lines.map (·.sub)))
    let last := { ready with writer := { ready.writer with next := 281474976710655 } }
    offered ready e = (.running, [[.placed 1, .copying]]) ∧ offered crowded e = (.suspended, [[.held [7], .copying]]) ∧
      offered (withWriter crowded .suspended) e = (.suspended, [[.held [7], .copying]]) ∧
      offered crowded { e with failed := true } = (.suspended, [[.pending, .copying]]) ∧
      withheld (drainingWith e) e = true ∧
      offered { crowded with restore := (drainingWith e).restore } e = (.suspended, [[.pending, .copying]]) ∧
      [offered (withWriter ready .frozen) e, offered (withWriter ready .frozen) { e with failed := true },
          offered (withBusy ready .softReset) e,
          offered { ready with writer := { ready.writer with frontier := 1 } } e] =
        [(.frozen, [[.held [7], .copying]]), (.frozen, [[.pending, .copying]]), (.running, [[.held [7], .copying]]),
          (.running, [[.durable, .copying]])] ∧
      offered last e = (.halted, []) ∧ (place (withHold last [e]) (undoRequest e 0x3000 [7])).2 = none ∧
      ready.writer.frontier < 1 := by decide +kernel

/-- The test of an entry: with a read in flight, withheld, withheld under the freeze, failed, offered again and placed, offered
again and refused, and refused past its deadline. -/
theorem test_meets_copies_tested :
    let tested := fun (p : Part) =>
      (let q := copiesTested p 5
       (q.port.responses.map (·.code), q.hold.queue.map (·.state)))
    let done := twoLines (.placed 1) (.placed 1)
    let held := twoLines (.held [7]) (.held [8])
    let drained := drainingWith held
    tested (withHold ready [twoLines .copying (.held [7])]) = ([], [.copying]) ∧
      tested drained = ([.refused], []) ∧ tested { drained with power := (withFreeze ready).power } = ([], [.recording]) ∧
      tested (withHold ready [{ done with failed := true }]) = ([.failed], []) ∧
      tested (withHold ready [held]) = ([], [.recording]) ∧ tested (withHold crowded [held]) = ([], [.waitSpace]) ∧
      tested (withHold { crowded with now := 10 } [held]) = ([], [.waitSpace]) ∧
      tested (withHold { crowded with now := 11 } [held]) = ([.refused], []) ∧
      tested (withHold ready [twoLines (.placed 1) .pending]) = ([], [.copying]) := by decide +kernel

/-- An entry proceeds: a read; a write whose lines are DURABLE, PLACED, and PENDING; one PENDING past its deadline. -/
theorem test_meets_proceed :
    let known := fun (n : Option Seq) (t : Time) =>
      ({ ready with now := t, tracker := n.toList.map fun x => { line := 0x3000, channel := 0, seq := some x } } : Part)
    let went := fun (p : Part) (e : HoldEntry) =>
      (let q := proceed (withHold p [e]) e
       (q.hold.queue.map (·.state), q.port.responses.length, q.arbiter.waiting.length))
    let w := entry 5 (writeReq 5 0x3000 4) .waitLine .pending
    let far := entry 6 (writeReq 6 0x9000 4) .recording .pending
    went (known none 99) (entry 5 (readReq 5 0x3000 4) .waitLine .pending) = ([.forwarding], 0, 1) ∧
      went (known (some 0) 99) w = ([.forwarding], 0, 1) ∧ went (known (some 1) 99) w = ([.recording], 0, 0) ∧
      went (known none 10) w = ([.waitCopy], 0, 0) ∧ went (known none 11) w = ([], 1, 0) ∧
      olderCleared [{ far with req := { far.req with addr := 0x3000 } }, w] w = false ∧ olderCleared [far, w] w = true := by
  decide +kernel

/-- Two records held behind a header; a line and a TORN record that the frontier has passed, and ones it has not. -/
theorem test_meets_frontier_noted :
    let held := fun (n : Seq) => { placedWrite false n 1 with presented := false, bytes := List.replicate 32 0 }
    let p := presentHeld (withJournal ready [placedWrite true 1 0, held 1, held 2]) 0
    let q := noteFrontier (withHold { ready with
      writer := { ready.writer with frontier := 3 },
      channels := setAt (setAt ready.channels 0 { chan ready 0 with tornRecord := some 3 }) 1
        { chan ready 1 with tornRecord := some 4 } } [twoLines (.placed 3) (.placed 4)])
    p.arbiter.waiting.map (·.purpose) = [.record 1, .record 2] ∧ p.writer.journal.all (·.presented) = true ∧
      q.hold.queue.map (fun x => x.lines.map (·.sub)) = [[.durable, .placed 4]] ∧
      (chan q 0).torn = true ∧ (chan q 1).torn = false := by decide +kernel

/-- Two commits durable by now: the lower number first. A rollback that a halt strands, and ones it does not. -/
theorem test_meets_ends_due :
    let m : Marker := { tag := 2, action := .commit, deadline := none, record := some 1 }
    let p := marked .commit .committing (some 2) 1
    let q := { p with writer := { p.writer with frontier := 2 },
                      channels := setAt p.channels 1 { chan p 1 with state := .committing, marker := some m } }
    firstDurable q = some 1 ∧ rollbackStranded (aborting .recording (some 0) (some 1) 1) = [0] ∧
      rollbackStranded (aborting .recording (some 0) (some 0) 1) = [] ∧
      rollbackStranded (aborting .draining (some 0) none 0) = [] := by decide +kernel

/-- A rollback whose marker has been answered, and what the answers to its request in flight leave. -/
theorem test_meets_stopped_rollback :
    let stopped := fun (st : WalkStage) =>
      (let p := walking st
       { p with channels := setAt p.channels 0 { chan p 0 with marker := none } } : Part)
    let left := fun (c : Instr) (st : WalkStage) =>
      (let q := after c (stopped st)
       (q.restore.rollback.map fun x => (x.stage, x.fault), q.restore.status.restored, q.restore.status.skipped))
    let two := WalkStage.payload undoHeader [.waiting, .waiting]
    (chan (stopped .header) 0).marker = none ∧
      left (.rollbackHeaderReadAnswered 0 (.done undoHeader.bytes)) .header = (some (.idle, false), 0, 0) ∧
      left (.rollbackHeaderReadAnswered 0 .failed) .header = (some (.idle, true), 0, 0) ∧
      left (.rollbackPayloadReadAnswered 0 (.done [1])) two = (some (.payload undoHeader [.done [1], .waiting], false), 0, 0) ∧
      left (.rollbackPayloadReadAnswered 0 (.done [1])) (.payload undoHeader [.waiting]) = (some (.idle, false), 0, 0) ∧
      left (.rollbackPayloadReadAnswered 0 .failed) (.payload undoHeader [.waiting]) = (some (.idle, true), 0, 1) ∧
      left (.rollbackRestoreWriteAnswered 0 .done) (.restore undoHeader) = (some (.idle, false), 1, 0) ∧
      left (.rollbackRestoreWriteAnswered 0 .failed) (.restore undoHeader) = (some (.idle, true), 0, 1) := by decide +kernel

/-- A FAILED read of a header slot, a FAILED header write of FORMAT, and a restore write answered DONE under the freeze. -/
theorem test_meets_recovery_failures :
    (let q := after (.scanReadAnswered 0 .failed) (withStage configured .recover (.scanSlot 0 2 1))
     q.restore.lastFailure = .readFault ∧ q.restore.report.faultSegment = some 0) ∧
    (let q := after (.formatHeaderWriteAnswered 0 .failed) (withStage configured .format (.formatHeader 1))
     q.restore.lastFailure = .rebaseFault ∧ q.restore.report.faultSegment = some 1 ∧ q.command.busy = .none) ∧
    (let q := after (.recoveryRestoreWriteAnswered 0 .done)
        (withFreeze (withStage configured .recover (.backWrite 0 5 2 undoHeader)))
     q.restore.lastFailure = .frozen ∧ (getAt q.restore.report.channels 0).restored = 1 ∧
       getAt q.restore.previous 0 = some 1) := by decide +kernel

/-- The table that goes into service, the one that RECOVER builds, and the usable segments, with segment 0 excluded. -/
theorem test_meets_segment_tables :
    let g := { geo with exclude := 1 }
    lowestUsable g < g.count.toNat ∧ usableSegments g = [1, 2, 3] ∧ (builtTable g).map (·.state) = [.excluded, .free, .free, .free] ∧
      (servedTable g 1).map (·.state) = [.excluded, .active, .free, .free] ∧ 0 < g.count.toNat ∧
      overlapsArea geo (region 0x1003 .marker 0) = true ∧ overlapsArea geo (region 0x1004 .strict 0) = false ∧
      overlapsArea geo (region 0x1003 .guarded 0) = false := by decide +kernel

/-- Claims in segment order: two that meet in one number, and ones that do not. -/
theorem test_meets_claims :
    let cs : List (Nat × Seq × Seq) := [(0, 1, 2), (1, 5, 6), (2, 2, 3)]
    cs.Pairwise (fun x y => x.1 < y.1) ∧ (∀ x ∈ cs, x.2.1 ≤ x.2.2) ∧ overlappingClaims cs = some (0, 2) ∧
      overlappingClaims [(0, 1, 2), (1, 3, 3)] = none := by decide +kernel

/-- What an expiry leaves of a write in WAIT_COPY: STRICT; LENIENT with its TORN record placed, with the mark set before, and
with no place for the record; LENIENT in WAIT_EPOCH. -/
theorem test_meets_expiries :
    let left := fun (p : Part) (cls : RegionClass) (st : EntryState) =>
      (let e := { entry 5 (writeReq 5 0x3000 4) st .pending with cls := cls }
       let q := expire (withHold p [e]) e
       (q.hold.queue.map fun x => (x.state, x.torn), q.port.responses.map (·.code), (chan q 0).tornRecord))
    let torn := { ready with channels := setAt ready.channels 0 { chan ready 0 with torn := true } }
    [left ready .strict .waitCopy, left ready .lenient .waitCopy, left torn .lenient .waitCopy,
        left (placing 124 0) .lenient .waitCopy, left ready .lenient .waitEpoch] =
      [([], [.refused], none), ([(.recording, true)], [], some 1), ([(.recording, true)], [], none),
        ([], [.refused], none), ([], [.refused], none)] := by decide +kernel

/-- The release of a write and a read of WAIT_EPOCH: of an IDLE channel; with no entry in the way; behind one that shares a
line, in time and past the deadline; an entry that has left. -/
theorem test_meets_release :
    let own := entry 8 (writeReq 8 0x3000 4) .recording (.placed 1)
    let left := fun (p : Part) (q : List HoldEntry) (r : Request) =>
      (let e := { entry 9 r .waitEpoch .pending with epoch := none }
       let u := releaseEpoch (withHold p (q ++ [e])) 0
       (((u.hold.queue.drop q.length).map fun x => (x.state, x.epoch)), u.port.responses.map (·.code), (chan u 0).journaledWrites))
    let w := writeReq 9 0x3000 4
    let r := readReq 9 0x3000 4
    let idle := withChannelState ready .idle
    [left idle [] w, left idle [] r, left ready [] r, left ready [] w, left ready [own] w,
        left { ready with now := 11 } [own] w] =
      [([], [.refused], 0), ([(.forwarding, none)], [], 0), ([(.forwarding, some 1)], [], 0), ([(.waitCopy, some 1)], [], 1),
        ([(.waitLine, some 1)], [], 1), ([], [.refused], 1)] ∧ holdEntry ready 9 = none := by decide +kernel

/-- Records and segment headers that fail one condition of their tests. -/
theorem test_meets_tests_fail :
    let image := List.replicate 64 (7 : Byte)
    let h := record1 .undo 2
    let valid := fun (h : HeaderSlot) (slot : Nat) (n : Seq) => recordValid geo.identity h image slot 128 n
    valid h 2 1 = true ∧ valid h 126 1 = false ∧ valid h 2 2 = false ∧ valid { h with w7 := 0 } 2 1 = false ∧
      ({ h with w0 := 6 } : HeaderSlot).kind = none ∧ ({ h with w0 := 0 } : HeaderSlot).kind = none ∧
      headerShape (record1 .commit 127) 127 128 = true ∧ headerShape (record1 .commit 128) 128 128 = false ∧
      headerShape { record1 .commit 2 with w0 := 0x00020002 } 2 128 = false ∧
      segmentHeaderValid geo 1 (header0 true) = false ∧
      segmentHeaderValid { geo with identity := 1 } 0 (header0 true) = false ∧
      segmentHeaderValid geo 0 ((header0 true).set 20 9) = false ∧ segmentHeaderUsed (header0 false) = false := by
  decide +kernel

/-- A record of number 1 at slot 2 whose back-link is not 0, as the scan accepts it: RESTORING ends its segment there and
begins the next, or REBASING (R136). At slot 5 a back-link that leads below slot 2 fails (log 17). -/
theorem test_slot_two_ends_the_segment :
    let linked := fun (n : Seq) => placedHeader geo.identity
      { kind := .commit, channel := 0, epoch := 1, torn := false, fault := false, overflowed := false, line := 0,
        region := 0xFFFF, image := [], undoCount := 0 } n 1 9
    let p := fun (slot : Nat) (n : Seq) (left : List Nat) =>
      (let u := withStage configured .recover (.backHeader 0 slot n)
       { u with restore := { u.restore with left := left, recovery := .restoring, tables := { u.restore.tables with
          segments := [SegmentScan.notRead, { SegmentScan.notRead with last := some (9, 7) }] } } })
    let q := fun (slot : Nat) (n : Seq) (left : List Nat) =>
      (after (.recoveryRestoreReadAnswered 0 (.done (linked n).bytes)) (p slot n left)).restore
    recordValid geo.identity (linked 1) [] 2 128 1 = true ∧ (q 2 1 [1]).stage = .backHeader 1 7 9 ∧
      ((q 2 1 []).recovery, (q 2 1 []).stage) = (.rebasing, .activeHeader 0) ∧
      ((q 5 2 []).recovery, (q 5 2 []).report.faultSeq) = (.failed, some 1) := by decide +kernel

/-- Placements that halt the writer: a waiting COMMIT request, a HELD image and a TORN record of the last number. The entry
has left with the halt, and the expiry adds nothing to it. -/
theorem test_meets_halting_placements :
    let last := { ready with writer := { ready.writer with next := 281474976710655 } }
    let r := commitRequest last 0
    let asked := { last with writer := { last.writer with waiting := [r] } }
    let e := entry 5 (writeReq 5 0x3000 4) .waitSpace (.held [7])
    let torn := { e with cls := .lenient }
    let held := offerImage (withHold last [e]) 5 0x3000 [7]
    let gone := place (withHold last [torn]) (tornRequest torn)
    accepts asked .commit = true ∧ rowAllows asked .commit = true ∧ (place last r).2 = none ∧
      (waitingStep asked).map (fun q => (q.writer.state, q.writer.waiting)) = some (.halted, []) ∧
      held.writer.state = .halted ∧ holdEntry held 5 = none ∧
      gone.2 = none ∧ gone.1.writer.state ≠ (withHold last [torn]).writer.state ∧
      (expire (withHold last [torn]) torn).port.responses.map (fun x => (x.tag, x.code)) = [(5, .refused)] := by decide +kernel

/-- No copy slot is assigned: with none free, with no line that may be copied, in a soft reset's drain. -/
theorem test_meets_no_slot_assigned :
    let wanted := withHold ready [entry 5 (writeReq 5 0x3000 4) .waitCopy .pending]
    let used := { line := 0, channel := 0, owner := none }
    let full := { wanted with slots := Vector.replicate 4 (some used) }
    (∀ j, getAt full.slots j ≠ none) ∧
      [wanted, full, withHold ready [entry 5 (writeReq 5 0x3000 4) .copying .copying], withBusy wanted .softReset].map
        (fun p => (assignSlot p).isSome) = [true, false, false, false] := by decide +kernel

/-- The scan of the last usable segment: the whole record's read, the next slot, a FAILED read, the segment's end. -/
theorem test_scan_of_the_last_segment :
    let q := fun (slot : Nat) (a : ReadAnswer) =>
      after (.scanReadAnswered 0 a) (withStage configured .recover (.scanSlot 3 slot 1))
    (usableSegments geo).find? (fun x => decide (3 < x)) = none ∧
      (q 2 (.done (record1 .undo 2).bytes)).restore.stage = .scanRecord 3 2 1 (freshPieces (slotAddr geo 3 2) 96) ∧
      (q 2 (.done (record1 .commit 2).bytes)).restore.stage = .scanSlot 3 3 2 ∧
      ((q 2 .failed).restore.report.reason, (q 2 .failed).restore.report.faultSegment) = (.readFault, some 3) ∧
      (q 127 (.done (record1 .commit 127).bytes)).restore.recovery = .failed := by decide +kernel

/-- Both sides of the small tests of the journal, of the counters at their top, and a word's byte order. -/
theorem test_meets_unfolded_names :
    [headerPending [placedWrite true 1 0] 0, headerPending [placedWrite true 1 1] 0, headerPending [placedWrite false 1 1] 0] =
        [false, true, false] ∧
      [placedWrite false 1 0, placedWrite false 1 1, { placedWrite false 1 0 with failed := true },
        { placedWrite false 1 0 with presented := false }].map JournalWrite.isDone = [true, false, false, false] ∧
      [countUp 0xFFFFFFFE, countUp 0xFFFFFFFF, countBy 2 0xFFFFFFFE, countBy 3 5] = [0xFFFFFFFF, 0xFFFFFFFF, 0xFFFFFFFF, 8] ∧
      wordAt [0x78, 0x56, 0x34, 0x12] 0 = 0x12345678 ∧ (freshPieces 0x1000010 64).length = 1 ∧
      internal ready = none ∧ (internal (withHold ready [entry 5 (writeReq 5 0x3000 4) .waitCopy .pending])).isSome = true := by
  decide +kernel

/-- The walk of a torn epoch without records ends as it begins (log 56). -/
theorem test_torn_epoch_without_records :
    let p := aborting .draining (some 0) none 0
    let torn := { p with channels := setAt p.channels 0 { chan p 0 with torn := true } }
    let q := (rollbackStep torn).getD blank
    (q.restore.rollback.map fun x => (x.phase, x.cursor)) = some (.recording, none) ∧
      q.restore.status.cursorSegment = none ∧ q.arbiter.waiting.map (·.purpose) = [.record 1] := by decide +kernel

/-- The registers that hold configuration, and those that read 0. -/
theorem test_configuration_reads :
    [0x00, 0x03, 0x08, 0x09, 0x0A, 0x10, 0x11, 0x12, 0x13, 0x0D, 0x7F].map (readRegister ready) =
      [0x0E420420, 0, 0x100, 0x20, 0x5A5A0001, 0, 1, 1, 1, 0, 0] := by decide +kernel

end Sys2Proof.Tests
end

/-! The regions and the classifier: the journal-area window, the matching entry of a page, and where a request at the head of
the intake queue goes (R1, R4 to R13, R26). -/

namespace Sys2Proof.Proofs

open Sys2Proof.Machine Sys2Proof.Laws

/-! ### The window and the matching entry -/

/-- The window is the whole of a well-formed area (R4). -/
theorem inWindow_iff (g : Geometry) (a : Nat) :
    inWindow g a = true ↔ g.sizeCode.toNat ≤ 4 ∧ 4 ≤ g.count.toNat ∧ g.count.toNat ≤ 64 ∧
      g.base.toNat * 65536 + g.count.toNat * (4096 * 2 ^ g.sizeCode.toNat) ≤ 2 ^ 40 ∧ g.base.toNat * 65536 ≤ a ∧
      a < g.base.toNat * 65536 + g.count.toNat * (4096 * 2 ^ g.sizeCode.toNat) := by
  simp only [inWindow, wellFormedArea, Bool.and_eq_true, decide_eq_true_eq, and_assoc]
  simp only [areaEnd, journalBase, segmentSize, Nat.mul_mod_left, true_and]

/-- The page of an address is its number divided by the page size (R1). -/
theorem pageOf_toNat (a : Addr) : (pageOf a).toNat = a.toNat / 4096 := by
  have h := a.isLt
  simp only [pageOf, BitVec.extractLsb'_toNat, Nat.shiftRight_eq_div_pow]
  omega

/-- An entry that covers the page of an address (R1). -/
theorem covers_pageOf (e : RegionEntry) (a : Addr) :
    e.covers (pageOf a) = true ↔ e.enabled = true ∧ e.base.toNat ≤ a.toNat / 4096 ∧ a.toNat / 4096 ≤ e.limit.toNat := by
  simp [RegionEntry.covers, pageOf_toNat, and_assoc]

/-- Every region index is looked at. -/
theorem mem_allRegions (i : Fin 16) : i ∈ allRegions := by revert i; decide

/-- The region indexes are looked at in ascending order. -/
theorem allRegions_sorted : allRegions.Pairwise (· < ·) := by decide

/-- In an ascending list the element found is the least with the property. -/
theorem find?_eq_some_of_sorted {n : Nat} {f : Fin n → Bool} {l : List (Fin n)} (hs : l.Pairwise (· < ·)) (i : Fin n) :
    l.find? f = some i ↔ i ∈ l ∧ f i = true ∧ ∀ j ∈ l, j < i → f j = false := by
  induction l with
  | nil => simp
  | cons x xs ih =>
    obtain ⟨hx, hxs⟩ := List.pairwise_cons.mp hs
    cases hf : f x with
    | true =>
      simp only [List.find?_cons, hf, Option.some.injEq]
      constructor
      · rintro rfl
        refine ⟨List.mem_cons_self .., hf, fun j hj hlt => ?_⟩
        rcases List.mem_cons.mp hj with rfl | hj
        · exact absurd hlt (lt_irrefl _)
        · exact absurd (hx j hj) (lt_asymm hlt)
      · rintro ⟨hi, -, hmin⟩
        rcases List.mem_cons.mp hi with rfl | hi
        · rfl
        · exact absurd (hmin x (List.mem_cons_self ..) (hx i hi)) (by simp [hf])
    | false =>
      simp only [List.find?_cons, hf, ih hxs, List.mem_cons]
      constructor
      · rintro ⟨hi, hfi, hmin⟩
        exact ⟨.inr hi, hfi, by rintro j (rfl | hj) hlt; exacts [hf, hmin j hj hlt]⟩
      · rintro ⟨rfl | hi, hfi, hmin⟩
        · simp [hf] at hfi
        · exact ⟨hi, hfi, fun j hj => hmin j (.inr hj)⟩

/-- The matching entry is the covering one of the lowest index (R7). -/
theorem lookupRegion_eq_some (t : Vector RegionEntry 16) (pg : Page) (i : Fin 16) :
    lookupRegion t pg = some i ↔ (getAt t i).covers pg = true ∧ ∀ j, j < i → (getAt t j).covers pg = false := by
  simp [lookupRegion, find?_eq_some_of_sorted allRegions_sorted, mem_allRegions]

/-- No entry matches when none covers the page (R7). -/
theorem lookupRegion_eq_none (t : Vector RegionEntry 16) (pg : Page) :
    lookupRegion t pg = none ↔ ∀ i, (getAt t i).covers pg = false := by
  simp [lookupRegion, mem_allRegions]

/-! ### Where a request goes -/

/-- A request outside the window with a matching entry goes by the entry's class (R5, R8). -/
theorem destination_of_entry {p : Part} {r : Request} {i : Fin 16}
    (hw : inWindow p.classifier.geometry r.addr.toNat = false)
    (hl : lookupRegion p.classifier.regions (pageOf r.addr) = some i) :
    destination p r = classDestination p r.kind i (getAt p.classifier.regions i) := by
  simp [destination, hw, hl]

/-- A journal-area read, and a request no class holds back, goes down (R6, R8, R9, R12). -/
theorem destination_eq_passDown {p : Part} {r : Request}
    (h : (inWindow p.classifier.geometry r.addr.toNat = true ∧ r.kind = .read) ∨
      (inWindow p.classifier.geometry r.addr.toNat = false ∧
        (lookupRegion p.classifier.regions (pageOf r.addr) = none ∨
          ∃ i, lookupRegion p.classifier.regions (pageOf r.addr) = some i ∧
            ((getAt p.classifier.regions i).cls = .pass ∨
              (r.kind = .read ∧ ((getAt p.classifier.regions i).cls = .guarded ∨
                ((getAt p.classifier.regions i).cls = .marker ∧ p.restore.recovery = .ready))))))) :
    destination p r = .passDown := by
  rcases h with ⟨hw, hk⟩ | ⟨hw, hl | ⟨i, hl, hc⟩⟩
  · simp [destination, hw, hk]
  · simp [destination, hw, hl]
  · rw [destination_of_entry hw hl]
    rcases hc with hc | ⟨hk, hc | ⟨hc, hr⟩⟩
    · simp [classDestination, hc]
    · simp [classDestination, hc, hk]
    · simp [classDestination, hc, hk, hr]

/-- A write into the window (R6). -/
theorem destination_eq_areaWrite {p : Part} {r : Request} (hw : inWindow p.classifier.geometry r.addr.toNat = true)
    (hk : r.kind = .write) : destination p r = .areaWrite := by
  simp [destination, hw, hk]

/-- What a class refuses: a GUARDED write, a protected class before READY, a journaled write of an IDLE channel
(R9, R11, R13). -/
theorem destination_eq_refuse {p : Part} {r : Request} {i : Fin 16}
    (hw : inWindow p.classifier.geometry r.addr.toNat = false)
    (hl : lookupRegion p.classifier.regions (pageOf r.addr) = some i)
    (h : ((getAt p.classifier.regions i).cls = .guarded ∧ r.kind = .write) ∨
      ((getAt p.classifier.regions i).cls.isProtected = true ∧ p.restore.recovery ≠ .ready) ∨
      (((getAt p.classifier.regions i).cls = .strict ∨ (getAt p.classifier.regions i).cls = .lenient) ∧
        r.kind = .write ∧ (chan p (getAt p.classifier.regions i).channel).state = .idle)) :
    destination p r = .refuse := by
  rw [destination_of_entry hw hl]
  rcases h with ⟨hc, hk⟩ | ⟨hc, hr⟩ | ⟨hc | hc, hk, hs⟩
  · simp [classDestination, hc, hk]
  · cases h : (getAt p.classifier.regions i).cls <;> simp_all [classDestination, RegionClass.isProtected]
  · simp [classDestination, hc, hk, hs]
  · simp [classDestination, hc, hk, hs]

/-- A write of a MARKER entry in READY is a marker candidate of the entry's channel (R12). -/
theorem destination_eq_candidate {p : Part} {r : Request} {i : Fin 16}
    (hw : inWindow p.classifier.geometry r.addr.toNat = false)
    (hl : lookupRegion p.classifier.regions (pageOf r.addr) = some i)
    (hc : (getAt p.classifier.regions i).cls = .marker) (hr : p.restore.recovery = .ready) (hk : r.kind = .write) :
    destination p r = .candidate (getAt p.classifier.regions i).channel := by
  rw [destination_of_entry hw hl]
  simp [classDestination, hc, hk, hr]

/-- A STRICT or LENIENT request in READY goes to the hold unit, but for a write of an IDLE channel (R10, R11). -/
theorem destination_eq_hold {p : Part} {r : Request} {i : Fin 16}
    (hw : inWindow p.classifier.geometry r.addr.toNat = false)
    (hl : lookupRegion p.classifier.regions (pageOf r.addr) = some i)
    (hc : (getAt p.classifier.regions i).cls = .strict ∨ (getAt p.classifier.regions i).cls = .lenient)
    (hr : p.restore.recovery = .ready)
    (hk : r.kind = .read ∨ (chan p (getAt p.classifier.regions i).channel).state ≠ .idle) :
    destination p r = .hold
      { cls := (getAt p.classifier.regions i).cls, channel := (getAt p.classifier.regions i).channel, region := i,
        counted := r.kind == .write && (chan p (getAt p.classifier.regions i).channel).state == .opened } := by
  rw [destination_of_entry hw hl]
  rcases hc with hc | hc <;> rcases hk with hk | hk <;> simp [classDestination, hc, hr, hk]

/-! ### The head of the intake queue, classified -/

/-- The part with the head taken out of the intake queue. -/
def dequeued (p : Part) (rest : List IntakeEntry) : Part := { p with port := { p.port with intake := rest } }

/-- What the classifier does with a request from the head of the intake queue, by its destination; `rest` was behind it. -/
def sent (p : Part) (rest : List IntakeEntry) (r : Request) : Destination → Part
  | .areaWrite => refuseAreaWrite (dequeued p rest) r
  | .refuse => respond (dequeued p rest) r.tag .refused []
  | .passDown => handOver (dequeued p rest) [passThrough r (.plain r.tag)]
  | .candidate c => candidateTaken (dequeued p rest) r c
  | .hold k => holdOrWait (dequeued p rest) rest r k

/-- The classifier sends an unclassified head to its destination (R5). -/
theorem classifyHead_eq {p : Part} {r : Request} {rest : List IntakeEntry} {d : Destination}
    (h : p.port.intake = { req := r, cls := none } :: rest) (hd : destination p r = d) :
    classifyHead p = sent p rest r d := by
  unfold classifyHead
  rw [h]
  dsimp only
  generalize destination p r = x at hd
  subst hd
  rfl

/-- CLASSIFY_REQUEST takes the head (R5). -/
theorem exec_classifyRequest {p : Part} {r : Request} {rest : List IntakeEntry} {d : Destination} (w : List Instr)
    (h : p.port.intake = { req := r, cls := none } :: rest) (hd : destination p r = d) :
    exec .classifyRequest ⟨p, w⟩ = .next ⟨sent p rest r d, w⟩ := by
  rw [← classifyHead_eq h hd]; rfl

/-- Settles O6: each outcome is the destination of the request and what the classifier does there; the window and the
matching entry by their own characterisations. -/
theorem classifierPassesOrRefuses : Obligations.ClassifierPassesOrRefuses := by
  refine ⟨fun p w r rest hq h => ?_, fun p w r rest hq => ⟨fun hw hk => ?_, fun i hw hl h => ?_⟩, ?_, ?_⟩
  · rw [exec_classifyRequest w hq (destination_eq_passDown h)]; rfl
  · rw [exec_classifyRequest w hq (destination_eq_areaWrite hw hk)]; rfl
  · rw [exec_classifyRequest w hq (destination_eq_refuse hw hl h)]; rfl
  · rintro g a _ _ rfl rfl
    exact inWindow_iff g a
  · rintro t a _ rfl
    simp only [lookupRegion_eq_some, lookupRegion_eq_none, ← covers_pageOf, Bool.not_eq_true, implies_true, and_self]

/-- A write that is not a marker misses one of R26's conditions. -/
theorem isMarker_eq_false {r : Request} {code : Word}
    (h : r.len ≠ 16 ∨ r.addr.toNat % 16 ≠ 0 ∨ r.enables ≠ List.replicate 16 true ∨ wordAt r.data 0 ≠ code) :
    isMarker r code = false := by
  rw [Bool.eq_false_iff]
  intro hm
  simp only [isMarker, Bool.and_eq_true, beq_iff_eq, decide_eq_true_eq, List.all_eq_true, id] at hm
  obtain ⟨⟨⟨hlen, haddr⟩, hcount, hall⟩, hcode⟩ := hm
  have hen : r.enables = List.replicate 16 true := List.eq_replicate_iff.mpr ⟨hcount, hall⟩
  rcases h with h | h | h | h
  · exact h hlen
  · exact h haddr
  · exact h hen
  · exact h hcode

/-- Settles O7: the candidate misses a condition of R26, so it is forwarded as it was received. -/
theorem unrecognisedMarkerIsForwarded : Obligations.UnrecognisedMarkerIsForwarded := by
  intro p w r rest i hq hw hl hc hr hk h
  have hm : isMarker r (chan (dequeued p rest) (getAt p.classifier.regions i).channel).code = false := isMarker_eq_false h
  rw [exec_classifyRequest w hq (destination_eq_candidate hw hl hc hr hk), sent, candidateTaken, hm, ← hk]
  rfl

end Sys2Proof.Proofs

/-! The link, the configuration and the resets: a row of a register group at its own index, what a write to a configuration
register does, and what a power-on or pin reset leaves (R2, R14, R159, R163, R171). -/

namespace Sys2Proof.Proofs

open Sys2Proof.Machine Sys2Proof.Laws

/-! ### Rows of a register group -/

/-- A row of a register group at its own index answers its effect, with the index advanced, when the effect leaves the link
alone (R171). -/
theorem changed_groupTaken {p : Part} {i : BitVec 7} {act : Part → Part} (v : Word) (w : List Instr)
    (h : p.link.writesAt i = true) (ha : (act p).link = p.link) :
    changed ⟨p, w⟩ (fun p => groupTaken p i v act) = .next ⟨{ act p with link := p.link.afterGroup }, w⟩ := by
  show Host.Outcome.next (State.mk (groupTaken p i v act) w) = _
  rw [groupTaken_eq h ha]

/-! ### Configuration writes -/

/-- Configuration writes are open while the writer is STOPPED and no command is BUSY (R14). -/
theorem configOpen_iff (p : Part) : configOpen p = true ↔ p.writer.state = .stopped ∧ p.command.busy = .none := by
  simp [configOpen]

/-- The journal geometry registers may be written while the geometry is not in force besides (R14, R15). -/
theorem geometryOpen_iff (p : Part) : geometryOpen p = true ↔
    p.writer.state = .stopped ∧ p.command.busy = .none ∧ p.classifier.inForce = false := by
  simp [geometryOpen, configOpen, and_assoc]

/-- A field of a written value as bits. -/
theorem field_eq_extractLsb' (v : Word) (lo len : Nat) : field v lo len = (v.extractLsb' lo len).toNat := by
  rw [field, BitVec.extractLsb'_toNat, Nat.shiftRight_eq_div_pow]

/-- The channel field of REGION_CONTROL (R2). -/
theorem fieldFin_channel (v : Word) : fieldFin v 4 2 4 (by decide) = (v.extractLsb' 4 2).toFin := by
  apply Fin.ext
  show field v 4 2 % 4 = (v.extractLsb' 4 2).toNat
  rw [field_eq_extractLsb']
  exact Nat.mod_eq_of_lt (v.extractLsb' 4 2).isLt

/-- The class codes in the order of R1's list (R175). -/
theorem classOfCode_eq (n : Nat) :
    classOfCode n = ([.pass, .guarded, .strict, .lenient, .marker] : List RegionClass)[n]? := by
  match n with
  | 0 | 1 | 2 | 3 | 4 => rfl
  | n + 5 => rw [List.getElem?_eq_none (by simp)]; rfl

/-- A write to the region window while configuration writes are closed is refused (R2). -/
theorem writeRegion_closed {p : Part} (h : configOpen p = false) (r : RegionReg) (v : Word) :
    writeRegion p r v = refuseConfig p := by
  simp [writeRegion, h]

/-- A write to REGION_CONTROL whose code names a class (R2). -/
theorem writeRegion_control {p : Part} {v : Word} {k : RegionClass} (h : configOpen p = true)
    (hk : classOfCode (v.extractLsb' 1 3).toNat = some k) : writeRegion p .control v =
      modRegion p fun e => { e with enabled := v.getLsbD 0, cls := k, channel := (v.extractLsb' 4 2).toFin } := by
  simp only [writeRegion, h, if_true, field_eq_extractLsb' v 1 3, hk, fieldFin_channel]

/-- A write to REGION_CONTROL whose code names none (R2). -/
theorem writeRegion_control_unnamed {p : Part} {v : Word} (h : configOpen p = true)
    (hk : classOfCode (v.extractLsb' 1 3).toNat = none) : writeRegion p .control v = refuseConfig p := by
  simp only [writeRegion, h, if_true, field_eq_extractLsb' v 1 3, hk]

/-- A write to the region window leaves the link alone. -/
theorem writeRegion_link (p : Part) (r : RegionReg) (v : Word) : (writeRegion p r v).link = p.link := by
  unfold writeRegion
  split
  · cases r with
    | base | limit => rfl
    | control => dsimp only; split <;> rfl
  · rfl

/-- A write to the configuration group leaves the link alone. -/
theorem writeConfigGroup_link (p : Part) (r : ConfigReg) (v : Word) : (writeConfigGroup p r v).link = p.link := by
  cases r <;> unfold writeConfigGroup <;> dsimp only <;> split <;> rfl

/-- REGION_ENTRY_WRITE at its own index (R2). -/
theorem exec_regionEntryWrite {p : Part} {r : RegionReg} (v : Word) (w : List Instr)
    (h : p.link.writesAt (regionRegIndex r) = true) :
    exec (.regionEntryWrite r v) ⟨p, w⟩ = .next ⟨{ writeRegion p r v with link := p.link.afterGroup }, w⟩ :=
  changed_groupTaken (act := fun q => writeRegion q r v) v w h (writeRegion_link p r v)

/-- CONFIG_GROUP_WRITE at its own index (R14). -/
theorem exec_configGroupWrite {p : Part} {r : ConfigReg} (v : Word) (w : List Instr)
    (h : p.link.writesAt (configRegIndex r) = true) :
    exec (.configGroupWrite r v) ⟨p, w⟩ = .next ⟨{ writeConfigGroup p r v with link := p.link.afterGroup }, w⟩ :=
  changed_groupTaken (act := fun q => writeConfigGroup q r v) v w h (writeConfigGroup_link p r v)

/-- A register of the configuration group that may not be written refuses (R14). -/
theorem writeConfigGroup_closed {p : Part} {r : ConfigReg} (v : Word)
    (h : configOpen p = false ∨ (p.classifier.inForce = true ∧ ∀ c, r ≠ .channelControl c)) :
    writeConfigGroup p r v = refuseConfig p := by
  have hg : geometryOpen p = false := by
    rcases h with h | ⟨h, -⟩ <;> simp [geometryOpen, h]
  cases r with
  | channelControl c =>
    rcases h with h | ⟨-, h⟩
    · simp [writeConfigGroup, h]
    · exact absurd rfl (h c)
  | _ => simp [writeConfigGroup, hg]

/-- Configuration writes are closed when the writer is not STOPPED or a command is BUSY (R14). -/
theorem configOpen_eq_false {p : Part} (h : p.writer.state ≠ .stopped ∨ p.command.busy ≠ .none) : configOpen p = false := by
  rw [Bool.eq_false_iff, Ne, configOpen_iff, not_and_or]
  exact h

/-- Settles O47: each row is a write at its own index, and the write is judged by whether the register is open. -/
theorem configurationWriteIsJudged : Obligations.ConfigurationWriteIsJudged := by
  refine ⟨fun p w v e he => ⟨fun ho => ?_, fun r hc hi => ?_⟩, fun p w v g hg => ⟨fun ho => ?_, fun ho c hi => ?_,
    fun r hi hc => ?_⟩, classOfCode_eq⟩
  · subst he
    have hopen := (configOpen_iff p).mpr ho
    refine ⟨fun hi => ?_, fun hi => ?_, fun k hi hk => ?_, fun hi hk => ?_⟩
    · rw [exec_regionEntryWrite (r := .base) v w hi]; simp only [writeRegion, hopen, if_true]; rfl
    · rw [exec_regionEntryWrite (r := .limit) v w hi]; simp only [writeRegion, hopen, if_true]; rfl
    · rw [exec_regionEntryWrite (r := .control) v w hi, writeRegion_control hopen hk]; rfl
    · rw [exec_regionEntryWrite (r := .control) v w hi, writeRegion_control_unnamed hopen hk]; rfl
  · rw [exec_regionEntryWrite v w hi, writeRegion_closed (configOpen_eq_false hc)]; rfl
  · subst hg
    have hopen := (geometryOpen_iff p).mpr ho
    refine ⟨fun hi => ?_, fun hi => ?_, fun hi => ?_, fun hi => ?_, fun hi => ?_⟩
    · rw [exec_configGroupWrite (r := .journalBase) v w hi]; simp only [writeConfigGroup, hopen, if_true]; rfl
    · rw [exec_configGroupWrite (r := .journalGeometry) v w hi]; simp only [writeConfigGroup, hopen, if_true]; rfl
    · rw [exec_configGroupWrite (r := .journalId) v w hi]; simp only [writeConfigGroup, hopen, if_true]; rfl
    · rw [exec_configGroupWrite (r := .excludeLo) v w hi]; simp only [writeConfigGroup, hopen, if_true]; rfl
    · rw [exec_configGroupWrite (r := .excludeHi) v w hi]; simp only [writeConfigGroup, hopen, if_true]; rfl
  · rw [exec_configGroupWrite v w hi]; simp only [writeConfigGroup, (configOpen_iff p).mpr ho, if_true]; rfl
  · rw [exec_configGroupWrite v w hi, writeConfigGroup_closed v ((or_assoc.mpr hc).imp_left configOpen_eq_false)]; rfl

/-! ### Power-on and pin reset -/

/-- A power-on or pin reset gives every block its reset state and samples PFAIL (R159, R163). -/
theorem exec_hardReset {c : Instr} (h : c = .powerOnReset ∨ c = .pinReset) (p : Part) (w : List Instr) :
    exec c ⟨p, w⟩ = .next ⟨samplePfail (resetBlocks p), w⟩ := by
  rcases h with rfl | rfl <;> rfl

/-- A link between frames stays so over a reset, any other ignores the clock (R174). -/
theorem afterReset_eq (f : FrameState) : f.afterReset = if f = .idle then .idle else .ignoring := by
  cases f <;> rfl

/-- Settles O45: with PFAIL negated the sample takes nothing; with PFAIL asserted it takes the freeze on the reset state. -/
theorem hardResetClears : Obligations.HardResetClears := by
  refine ⟨fun p w c hc => ⟨fun hp => ?_, fun hp => ?_⟩, rfl⟩
  · have hs : samplePfail (resetBlocks p) = resetBlocks p := if_neg (by simp [resetBlocks, hp])
    rw [exec_hardReset hc, hs, resetBlocks, afterReset_eq, hp]
    rfl
  · have hs : samplePfail (resetBlocks p) = takeFreeze (resetBlocks p) := if_pos hp
    obtain ⟨q, hq, hpower, hset, hstate, henables, hclassifier, -, hcommand, -, -, hrecovery, -⟩ :=
      takeFreeze_spec (p := resetBlocks p) rfl
    refine ⟨q, by rw [exec_hardReset hc, hs, hq], ?_, hset, hstate, henables, hclassifier, hrecovery, hcommand⟩
    rw [hpower, ← hp]
    rfl

end Sys2Proof.Proofs

/-! The command slot: a command at COMMAND answers its own rule's judgement; every refusal with its reason; the geometry check;
RECOVER and FORMAT taken (R15, R16, R71, R90, R106 to R108, R129, R130, R177). -/

namespace Sys2Proof.Proofs

open Sys2Proof.Machine Sys2Proof.Laws

/-! ### A command at COMMAND -/

/-- A command whose effect answers `q` and leaves the link alone: `q`, with the index advanced (R171, R177). -/
theorem changed_commandGroup {p q : Part} {act : Part → Part} (code operand : Nat) (w : List Instr)
    (h : p.link.writesAt 3 = true) (ha : act p = q) (hq : q.link = p.link) :
    changed ⟨p, w⟩ (fun p => commandGroup p code operand act) = .next ⟨{ q with link := p.link.afterGroup }, w⟩ := by
  subst ha
  exact changed_groupTaken (commandValue code operand) w h hq

section
variable {p q : Part} (w : List Instr)

theorem exec_recover (h : p.link.writesAt 3 = true) (hj : unlessBusy p .recover judgeRecover = q) (hq : q.link = p.link) :
    exec .recover ⟨p, w⟩ = .next ⟨{ q with link := p.link.afterGroup }, w⟩ :=
  changed_commandGroup (act := fun p => unlessBusy p .recover judgeRecover) 1 0 w h hj hq

theorem exec_format (h : p.link.writesAt 3 = true) (hj : unlessBusy p .format judgeFormat = q) (hq : q.link = p.link) :
    exec .format ⟨p, w⟩ = .next ⟨{ q with link := p.link.afterGroup }, w⟩ :=
  changed_commandGroup (act := fun p => unlessBusy p .format judgeFormat) 2 0 w h hj hq

theorem exec_start (h : p.link.writesAt 3 = true) (hj : unlessBusy p .start judgeStart = q) (hq : q.link = p.link) :
    exec .start ⟨p, w⟩ = .next ⟨{ q with link := p.link.afterGroup }, w⟩ :=
  changed_commandGroup (act := fun p => unlessBusy p .start judgeStart) 3 0 w h hj hq

theorem exec_stop (h : p.link.writesAt 3 = true) (hj : unlessBusy p .stop judgeStop = q) (hq : q.link = p.link) :
    exec .stop ⟨p, w⟩ = .next ⟨{ q with link := p.link.afterGroup }, w⟩ :=
  changed_commandGroup (act := fun p => unlessBusy p .stop judgeStop) 4 0 w h hj hq

theorem exec_returnSegment {n : Fin 64} (h : p.link.writesAt 3 = true)
    (hj : unlessBusy p .returnSegment (fun u => judgeReturn u n.val) = q) (hq : q.link = p.link) :
    exec (.returnSegment n) ⟨p, w⟩ = .next ⟨{ q with link := p.link.afterGroup }, w⟩ :=
  changed_commandGroup (act := fun p => unlessBusy p .returnSegment fun u => judgeReturn u n.val) 5 n.val w h hj hq

theorem exec_unknownCommand {code : BitVec 3} (h : p.link.writesAt 3 = true)
    (hj : commandWritten p (commandValue code.toNat 0) = q) (hq : q.link = p.link) :
    exec (.unknownCommand code) ⟨p, w⟩ = .next ⟨{ q with link := p.link.afterGroup }, w⟩ :=
  changed_commandGroup (act := fun p => commandWritten p (commandValue code.toNat 0)) code.toNat 0 w h hj hq

end

/-! ### The judgement of a command -/

/-- With no command in progress a command's own rule judges it (R177). -/
theorem unlessBusy_free {p : Part} (h : p.command.busy = .none) (c : CommandName) (judge : Part → Part) :
    unlessBusy p c judge = judge p := by
  simp [unlessBusy, h]

/-- With one in progress it is refused with BUSY (R177). -/
theorem unlessBusy_busy {p : Part} (h : p.command.busy ≠ .none) (c : CommandName) (judge : Part → Part) :
    unlessBusy p c judge = refuseCommand p c .busy := by
  simp [unlessBusy, h]

/-- The geometry check stands before a command proceeds: a failure refuses it with the detail and the overlapping entry
(R16). -/
theorem withGeometry_eq {p : Part} {x : Option (GeometryDetail × Fin 16)} (h : geometryCheck p = x) (c : CommandName)
    (go : Part → Part) : withGeometry p c go = x.elim (go p) fun y => refuseGeometry p c y.1 y.2 := by
  subst h
  unfold withGeometry
  cases geometryCheck p <;> rfl

/-- RECOVER outside UNRECOVERED and RECOVERY_FAILED (R129). -/
theorem judgeRecover_state {p : Part} (hf : p.power.frozen = false) (hr : p.restore.recovery ≠ .unrecovered)
    (hr' : p.restore.recovery ≠ .failed) : judgeRecover p = refuseCommand p .recover .recoveryState := by
  simp [judgeRecover, hf, hr, hr']

/-- RECOVER in UNRECOVERED or RECOVERY_FAILED, not frozen, comes to the geometry check (R129). -/
theorem judgeRecover_checks {p : Part} (hf : p.power.frozen = false)
    (hr : p.restore.recovery = .unrecovered ∨ p.restore.recovery = .failed) :
    judgeRecover p = withGeometry p .recover beginRecover := by
  rcases hr with hr | hr <;> simp [judgeRecover, hf, hr]

/-- FORMAT outside UNRECOVERED (R130). -/
theorem judgeFormat_state {p : Part} (hf : p.power.frozen = false) (hr : p.restore.recovery ≠ .unrecovered) :
    judgeFormat p = refuseCommand p .format .recoveryState := by
  simp [judgeFormat, hf, hr]

/-- FORMAT in UNRECOVERED, not frozen, comes to the geometry check (R130). -/
theorem judgeFormat_checks {p : Part} (hf : p.power.frozen = false) (hr : p.restore.recovery = .unrecovered) :
    judgeFormat p = withGeometry p .format beginFormat := by
  simp [judgeFormat, hf, hr]

/-- START with the writer in service (R107). -/
theorem judgeStart_writer {p : Part} (hw : p.writer.state ≠ .stopped) :
    judgeStart p = refuseCommand p .start .writerState := by
  simp [judgeStart, hw]

/-- START with the writer STOPPED before READY (R107). -/
theorem judgeStart_notReady {p : Part} (hw : p.writer.state = .stopped) (hr : p.restore.recovery ≠ .ready) :
    judgeStart p = refuseCommand p .start .notReady := by
  simp [judgeStart, hw, hr]

/-- START with the writer STOPPED in READY comes to the geometry check (R107). -/
theorem judgeStart_checks {p : Part} (hw : p.writer.state = .stopped) (hr : p.restore.recovery = .ready) :
    judgeStart p = withGeometry p .start beginService := by
  simp [judgeStart, hw, hr]

/-- A channel is quiet enough for STOP when it is IDLE, or OPEN with nothing of its epoch recorded or outstanding (R108). -/
theorem quiet_iff (ch : Channel) : ch.quiet = true ↔ ch.state = .idle ∨
    (ch.state = .opened ∧ ch.records = 0 ∧ ch.torn = false ∧ ch.tornRecord = none ∧ ch.outstanding = 0) := by
  unfold Channel.quiet
  cases ch.state <;> simp [and_assoc]

/-- STOP looks at every channel (R108). -/
theorem all_quiet_iff (p : Part) : p.channels.all Channel.quiet = true ↔ ∀ c, (chan p c).quiet = true := by
  rw [Vector.all_eq_true]
  exact ⟨fun h c => h c.val c.isLt, fun h i hi => h ⟨i, hi⟩⟩

/-- STOP with the writer out of service (R108). -/
theorem judgeStop_writer {p : Part} (hw : p.writer.state ≠ .running) (hw' : p.writer.state ≠ .suspended) :
    judgeStop p = refuseCommand p .stop .writerState := by
  simp [judgeStop, hw, hw']

/-- STOP while a channel is not quiet (R108). -/
theorem judgeStop_busy {p : Part} (hw : p.writer.state = .running ∨ p.writer.state = .suspended)
    (hc : ∃ c, (chan p c).quiet = false) : judgeStop p = refuseCommand p .stop .channelsBusy := by
  have hall : p.channels.all Channel.quiet = false := by
    rw [Bool.eq_false_iff, Ne, all_quiet_iff]
    obtain ⟨c, hc⟩ := hc
    exact fun h => by simp [h c] at hc
  rcases hw with hw | hw <;> simp [judgeStop, hw, hall]

/-- STOP with every channel quiet and an entry held (R108). -/
theorem judgeStop_inFlight {p : Part} (hw : p.writer.state = .running ∨ p.writer.state = .suspended)
    (hc : ∀ c, (chan p c).quiet = true) (hq : p.hold.queue ≠ []) :
    judgeStop p = refuseCommand p .stop .recordsInFlight := by
  have hall : p.channels.all Channel.quiet = true := (all_quiet_iff p).mpr hc
  rcases hw with hw | hw <;> simp [judgeStop, hw, hall, hq]

/-- RETURN_SEGMENT with no geometry in force (R106). -/
theorem judgeReturn_noGeometry {p : Part} (hf : p.classifier.inForce = false) (n : Nat) :
    judgeReturn p n = refuseCommand p .returnSegment .noGeometry := by
  simp [judgeReturn, hf]

/-- RETURN_SEGMENT of a segment the area does not have (R106). -/
theorem judgeReturn_range {p : Part} {n : Nat} (hf : p.classifier.inForce = true)
    (hn : p.classifier.geometry.count.toNat ≤ n) : judgeReturn p n = refuseCommand p .returnSegment .segmentRange := by
  simp [judgeReturn, hf, hn]

/-- RETURN_SEGMENT of a segment that is not HELD (R106). -/
theorem judgeReturn_notHeld {p : Part} {n : Nat} (hf : p.classifier.inForce = true)
    (hn : n < p.classifier.geometry.count.toNat) (he : ∀ e, p.writer.table[n]? = some e → e.state ≠ .held) :
    judgeReturn p n = refuseCommand p .returnSegment .notHeld := by
  have hany : (p.writer.table[n]?).any (fun e => e.state == .held) = false := by
    cases h : p.writer.table[n]? with
    | none => rfl
    | some e => simpa using he e h
  simp [judgeReturn, hf, Nat.not_le.mpr hn, hany]

/-- A code that names no command (R177). -/
theorem commandWritten_unknown (p : Part) {code : BitVec 3} (h : code = 0 ∨ code = 7) :
    commandWritten p (commandValue code.toNat 0) = refuseCommand p .unknown .unknownCommand := by
  unfold commandWritten
  rw [field_commandValue_code _ _ code.isLt]
  rcases h with rfl | rfl <;> rfl

/-! ### The geometry check -/

/-- A segment below N is usable when it is not excluded (R71). -/
theorem usableSegments_eq (g : Geometry) :
    usableSegments g = (List.range g.count.toNat).filter fun i => !g.exclude.getLsbD i :=
  List.filter_congr fun i hi => by simp [usableSegment, List.mem_range.mp hi]

/-- The first condition of R16 that fails, in its order; BASE_ALIGN never does (log 33). -/
theorem geometryCheck_eq (p : Part) {g : Geometry} (hg : g = p.classifier.geometry) :
    geometryCheck p =
      if 4 < g.sizeCode.toNat then some (.sizeCode, 0)
      else if g.count.toNat < 4 ∨ 64 < g.count.toNat then some (.segmentCount, 0)
      else if 2 ^ 40 < areaEnd g then some (.areaRange, 0)
      else if ((List.range g.count.toNat).filter fun i => !g.exclude.getLsbD i).length < 3 then some (.usableSegments, 0)
      else (allRegions.find? fun i => overlapsArea g (getAt p.classifier.regions i)).map fun i => (.regionOverlap, i) := by
  subst hg
  have hbase : ¬ journalBase p.classifier.geometry % 65536 ≠ 0 := by simp [journalBase]
  rw [← usableSegments_eq]
  unfold geometryCheck
  dsimp only
  rw [if_neg hbase]
  cases allRegions.find? fun i => overlapsArea p.classifier.geometry (getAt p.classifier.regions i) <;> rfl

/-- Two runs of pages and bytes meet in a byte: the later of the two beginnings. -/
theorem exists_page_iff (first stop base limit : Nat) (h : first < stop) :
    (base ≤ limit ∧ base * 4096 < stop ∧ first < (limit + 1) * 4096) ↔
      ∃ a, first ≤ a ∧ a < stop ∧ base ≤ a / 4096 ∧ a / 4096 ≤ limit := by
  constructor
  · intro hb
    exact ⟨max first (base * 4096), by omega, by omega, by omega, by omega⟩
  · rintro ⟨a, ha⟩
    omega

/-- An entry of a protected class overlaps the area when a byte of the area lies in its pages (R16). -/
theorem overlapsArea_iff {g : Geometry} (e : RegionEntry) (h : 0 < g.count.toNat) :
    overlapsArea g e = true ↔ e.enabled = true ∧ (e.cls = .strict ∨ e.cls = .lenient ∨ e.cls = .marker) ∧
      ∃ a, journalBase g ≤ a ∧ a < areaEnd g ∧ e.base.toNat ≤ a / 4096 ∧ a / 4096 ≤ e.limit.toNat := by
  have hsize : 0 < segmentSize g := Nat.mul_pos (by decide) (Nat.two_pow_pos _)
  have hlt : journalBase g < areaEnd g := Nat.lt_add_of_pos_right (Nat.mul_pos h hsize)
  have hcls : e.cls.isProtected = true ↔ e.cls = .strict ∨ e.cls = .lenient ∨ e.cls = .marker := by
    cases e.cls <;> simp [RegionClass.isProtected]
  rw [← exists_page_iff _ _ _ _ hlt, ← hcls]
  simp only [overlapsArea, Bool.and_eq_true, decide_eq_true_eq, and_assoc]

/-! ### Refusals -/

/-- Settles O39: each refusal is the judgement of its command, which changes nothing but the last result and
COMMAND_REFUSED; the check and the overlap by their own characterisations. -/
theorem refusedCommandIsRecorded : Obligations.RefusedCommandIsRecorded := by
  refine ⟨?_, fun p g hg => geometryCheck_eq p hg, fun g e first h hf => ?_, fun _ _ => rfl⟩
  · rintro p w n _ hl rfl
    refine ⟨fun code hc => ?_, fun c name hb hc => ?_, fun hb hf => ⟨?_, ?_⟩, fun hb hf => ⟨fun hr => ?_, fun hr hr' => ?_⟩,
      fun hb => ⟨fun hw => ?_, fun hw hr => ?_⟩, fun hb => ⟨fun hw hw' => ?_, fun hw => ⟨fun hc => ?_, fun hc hq => ?_⟩⟩,
      fun hb => ⟨fun hf => ?_, fun hf hn => ?_, fun hf hn he => ?_⟩, fun c name d o hb hg hc => ?_⟩
    · exact exec_unknownCommand w hl (commandWritten_unknown p hc) rfl
    · rcases hc with ⟨rfl, rfl⟩ | ⟨rfl, rfl⟩ | ⟨rfl, rfl⟩ | ⟨rfl, rfl⟩ | ⟨rfl, rfl⟩
      · exact exec_recover w hl (unlessBusy_busy hb _ _) rfl
      · exact exec_format w hl (unlessBusy_busy hb _ _) rfl
      · exact exec_start w hl (unlessBusy_busy hb _ _) rfl
      · exact exec_stop w hl (unlessBusy_busy hb _ _) rfl
      · exact exec_returnSegment w hl (unlessBusy_busy hb _ _) rfl
    · exact exec_recover w hl ((unlessBusy_free hb _ _).trans (if_pos hf)) rfl
    · exact exec_format w hl ((unlessBusy_free hb _ _).trans (if_pos hf)) rfl
    · exact exec_format w hl ((unlessBusy_free hb _ _).trans (judgeFormat_state hf hr)) rfl
    · exact exec_recover w hl ((unlessBusy_free hb _ _).trans (judgeRecover_state hf hr hr')) rfl
    · exact exec_start w hl ((unlessBusy_free hb _ _).trans (judgeStart_writer hw)) rfl
    · exact exec_start w hl ((unlessBusy_free hb _ _).trans (judgeStart_notReady hw hr)) rfl
    · exact exec_stop w hl ((unlessBusy_free hb _ _).trans (judgeStop_writer hw hw')) rfl
    · refine exec_stop w hl ((unlessBusy_free hb _ _).trans (judgeStop_busy hw ?_)) rfl
      obtain ⟨c, hidle, hopen⟩ := hc
      refine ⟨c, ?_⟩
      rw [Bool.eq_false_iff, Ne, quiet_iff]
      rintro (h | ⟨h1, h2, h3, h4, h5⟩)
      · exact hidle h
      · simp [h1, h2, h3, h4, h5] at hopen
    · exact exec_stop w hl ((unlessBusy_free hb _ _).trans
        (judgeStop_inFlight hw (fun c => (quiet_iff _).mpr (hc c)) hq)) rfl
    · exact exec_returnSegment w hl ((unlessBusy_free hb _ _).trans (judgeReturn_noGeometry hf _)) rfl
    · exact exec_returnSegment w hl ((unlessBusy_free hb _ _).trans (judgeReturn_range hf hn)) rfl
    · exact exec_returnSegment w hl ((unlessBusy_free hb _ _).trans (judgeReturn_notHeld hf hn he)) rfl
    · have hgo := fun c go => withGeometry_eq hg c go
      rcases hc with ⟨rfl, rfl, hf, hr⟩ | ⟨rfl, rfl, hf, hr⟩ | ⟨rfl, rfl, hw, hr⟩
      · exact exec_recover w hl ((unlessBusy_free hb _ _).trans ((judgeRecover_checks hf hr).trans (hgo _ _))) rfl
      · exact exec_format w hl ((unlessBusy_free hb _ _).trans ((judgeFormat_checks hf hr).trans (hgo _ _))) rfl
      · exact exec_start w hl ((unlessBusy_free hb _ _).trans ((judgeStart_checks hw hr).trans (hgo _ _))) rfl
  · subst hf
    exact overlapsArea_iff e h

/-! ### RECOVER and FORMAT taken -/

/-- The usable segments are the segments below N that are not excluded (R71). -/
theorem mem_usableSegments (g : Geometry) (i : Nat) :
    i ∈ usableSegments g ↔ i < g.count.toNat ∧ g.exclude.getLsbD i = false := by
  simp [usableSegments_eq]

/-- They stand in ascending order (R71). -/
theorem usableSegments_sorted (g : Geometry) : (usableSegments g).Pairwise (· < ·) :=
  List.pairwise_lt_range.filter _

/-- The table built has an EXCLUDED or FREE entry for each segment (R90). -/
theorem getElem?_builtTable (g : Geometry) {i : Nat} (h : i < g.count.toNat) :
    (builtTable g)[i]? =
      some { state := if g.exclude.getLsbD i then .excluded else .free, first := 0, used := 0, lastLen := 0, mask := 0 } := by
  cases hx : g.exclude.getLsbD i <;> simp [builtTable, usableSegment, h, hx]

/-- A FORMAT with a second usable segment writes that segment's EMPTY header first (R130). -/
theorem beginFormat_eq {p : Part} {j : Nat} {rest : List Nat}
    (h : (usableSegments p.classifier.geometry).tail = j :: rest) :
    beginFormat p = { p with
      classifier := { p.classifier with inForce := true },
      writer := { p.writer with table := builtTable p.classifier.geometry },
      restore := { p.restore with
        recovery := .rebasing, stage := .formatHeader j, left := [], previous := Vector.replicate 4 none,
        tables := { RecoveryTables.cleared with
                    segments := List.replicate p.classifier.geometry.count.toNat SegmentScan.notRead },
        report := { Report.cleared with kind := .format } },
      arbiter := { p.arbiter with waiting := p.arbiter.waiting ++
        [engineWrite (.recovery 0) (segmentAddr p.classifier.geometry j)
          (segmentHeaderBytes p.classifier.geometry j false 0 noEpochs)] },
      command := { p.command with busy := .format } } := by
  have hs : formatSegments p.classifier.geometry = j :: rest := h
  show formatFrom _ (formatSegments p.classifier.geometry) = _
  rw [hs]
  rfl

/-- Settles O40: with the conditions met the judgement is the beginning of the command; the table and the usable segments by
their own characterisations. -/
theorem recoverOrFormatIsTaken : Obligations.RecoverOrFormatIsTaken := by
  refine ⟨fun p w hl hb hf hr hg => ?_, fun p w j rest hl hb hf hr hg hj => ?_, fun g => ⟨?_, fun i hi => ?_,
    usableSegments_sorted g, mem_usableSegments g, fun i rest h => ?_⟩⟩
  · exact exec_recover w hl ((unlessBusy_free hb _ _).trans
      ((judgeRecover_checks hf hr).trans (withGeometry_eq hg _ _))) rfl
  · exact exec_format w hl ((unlessBusy_free hb _ _).trans
      ((judgeFormat_checks hf hr).trans ((withGeometry_eq hg _ _).trans (beginFormat_eq hj)))) rfl
  · simp [builtTable]
  · exact getElem?_builtTable g hi
  · simp [lowestUsable, h]

end Sys2Proof.Proofs

/-! The hold unit takes a request: what joins the hold queue, what goes down, what is refused and what stays at the head of the
intake queue, for a request just classified and for a head taken again (R10, R11, R39, R44, R45, R53, R56). -/

namespace Sys2Proof.Proofs

open Sys2Proof.Machine Sys2Proof.Laws

/-! ### Channels -/

/-- A channel is rolling back in some substate (R18). -/
theorem isRollingBack_iff (s : ChannelState) : s.isRollingBack = true ↔ ∃ x, s = .rollingBack x := by
  cases s <;> simp [ChannelState.isRollingBack]

/-- Two changes of one channel are one. -/
theorem modChan_modChan (p : Part) (c : Chan) (f g : Channel → Channel) :
    modChan (modChan p c f) c g = modChan p c fun ch => g (f ch) := by
  simp [modChan, chan]

/-- A channel does not see what is handed to the arbiter. -/
theorem modChan_handOver (p : Part) (rs : List DownReq) (c : Chan) (f : Channel → Channel) :
    modChan (handOver p rs) c f = handOver (modChan p c f) rs := rfl

/-- A change that leaves the channel as it is leaves the part. -/
theorem modChan_of_fixed {p : Part} {c : Chan} {f : Channel → Channel} (h : f (chan p c) = chan p c) : modChan p c f = p := by
  rw [modChan, h, chan, setAt_getAt]

/-- A write among the journaled writes of its channel exactly once: counted now unless it was counted before (R39). -/
theorem countedOnce_eq (p : Part) (k : Classification) :
    (if k.counted then p else countJournaled p k.channel) = modChan p k.channel fun ch =>
      { ch with journaledWrites := if k.counted then ch.journaledWrites else countUp ch.journaledWrites } := by
  cases k.counted with
  | true => exact (modChan_of_fixed rfl).symm
  | false => rfl

/-! ### Entries that join -/

/-- A deadline runs from joining unless HOLD_LIMIT is 0 (R53). -/
theorem joinDeadline_eq (p : Part) :
    joinDeadline p = if p.hold.limit = 0 then none else some (p.now + p.hold.limit.toNat * 10) := by
  simp [joinDeadline, Config.holdUnit]

/-- The part with an entry at the end of queue order. -/
def joined (p : Part) (e : HoldEntry) : Part := { p with hold := { p.hold with queue := p.hold.queue ++ [e] } }

/-- An entry joins while one of the 8 is free (R51). -/
theorem joinHold_room {p : Part} (h : p.hold.queue.length < 8) (e : HoldEntry) : joinHold p e = some (joined p e) :=
  if_pos h

/-- None joins with all 8 in use (R56). -/
theorem joinHold_full {p : Part} (h : 8 ≤ p.hold.queue.length) (e : HoldEntry) : joinHold p e = none :=
  if_neg (Nat.not_lt.mpr h)

/-! ### Reads (R44) -/

section
variable {p : Part} {r : Request} {k : Classification}

theorem holdTake_read (h : r.kind = .read) : holdTake p r k = takeRead p r k := by
  simp [holdTake, h]

/-- A read of a channel that is rolling back waits for the epoch. -/
theorem takeRead_rollingBack (hs : ∃ s, (chan p k.channel).state = .rollingBack s) :
    takeRead p r k = joinHold p (newEntry p r k none .waitEpoch (coveredLines r)) :=
  if_pos ((isRollingBack_iff _).mpr hs)

/-- Any other read that shares a line with the queue waits for it. -/
theorem takeRead_sharing (hs : ∀ s, (chan p k.channel).state ≠ .rollingBack s) (hl : sharesHeld p.hold.queue r = true) :
    takeRead p r k = joinHold p (newEntry p r k none .waitLine (coveredLines r)) := by
  have hn : (chan p k.channel).state.isRollingBack ≠ true := by simpa [isRollingBack_iff] using hs
  rw [takeRead, if_neg hn, if_pos hl]

/-- A read that nothing keeps goes down. -/
theorem takeRead_free (hs : ∀ s, (chan p k.channel).state ≠ .rollingBack s) (hl : sharesHeld p.hold.queue r = false) :
    takeRead p r k = some (handOver p [passThrough r (.plain r.tag)]) := by
  have hn : (chan p k.channel).state.isRollingBack ≠ true := by simpa [isRollingBack_iff] using hs
  rw [takeRead, if_neg hn, if_neg (by simp [hl])]

/-- A read that something keeps needs an entry. -/
theorem takeRead_full (h : (∃ s, (chan p k.channel).state = .rollingBack s) ∨ sharesHeld p.hold.queue r = true)
    (hq : 8 ≤ p.hold.queue.length) : takeRead p r k = none := by
  by_cases hs : ∃ s, (chan p k.channel).state = .rollingBack s
  · rw [takeRead_rollingBack hs, joinHold_full hq]
  · rw [takeRead_sharing (not_exists.mp hs) (h.resolve_left hs), joinHold_full hq]

end

/-! ### Writes (R44, R45) -/

section
variable {p : Part} {r : Request} {k : Classification}

theorem holdTake_write (h : r.kind = .write) : holdTake p r k = takeWrite p r k := by
  simp [holdTake, h]

/-- A write is refused while the writer is HALTED or the FROZEN indication set, and where its channel is IDLE
(R56, R102, R166). -/
theorem takeWrite_refused (h : p.writer.state = .halted ∨ p.power.frozen = true ∨ (chan p k.channel).state = .idle) :
    takeWrite p r k = some (respond p r.tag .refused []) := by
  unfold takeWrite
  split
  · rfl
  next hn =>
    rw [Bool.or_eq_true, beq_iff_eq, not_or] at hn
    rw [(h.resolve_left hn.1).resolve_left hn.2]

/-- A write in service is taken by the state of its channel (R44). -/
theorem takeWrite_rollingBack (hw : p.writer.state ≠ .halted) (hf : p.power.frozen = false)
    (hs : (chan p k.channel).state = .committing ∨ ∃ s, (chan p k.channel).state = .rollingBack s) :
    takeWrite p r k = joinHold p (newEntry p r k none .waitEpoch (coveredLines r)) := by
  rcases hs with hs | ⟨s, hs⟩ <;> simp [takeWrite, hw, hf, hs]

/-- A write of an OPEN channel is counted once and goes by its lines (R39, R44). -/
theorem takeWrite_opened (hw : p.writer.state ≠ .halted) (hf : p.power.frozen = false)
    (hs : (chan p k.channel).state = .opened) :
    takeWrite p r k = takeOpenWrite (if k.counted then p else countJournaled p k.channel) r k := by
  simp [takeWrite, hw, hf, hs]

/-- A write of an OPEN channel that shares a line with the queue waits for it (R44). -/
theorem takeOpenWrite_sharing (hl : sharesHeld p.hold.queue r = true) :
    takeOpenWrite p r k =
      joinHold p (newEntry p r k (some (chan p k.channel).epoch) .waitLine (coveredLines r)) :=
  if_pos hl

/-- Every line the write changes is DURABLE (R45). -/
theorem allDurable_iff (ls : List HoldLine) :
    allDurable ls = true ↔ ∀ l ∈ ls, l.changed = true → l.sub = .durable := by
  simp [allDurable, imp_iff_not_or]

/-- One with every changed line DURABLE goes down as a direct write (R45). -/
theorem takeOpenWrite_direct (hl : sharesHeld p.hold.queue r = false)
    (hd : ∀ l ∈ (coveredLines r).map (lookedUp p k.channel), l.changed = true → l.sub = .durable) :
    takeOpenWrite p r k = some (countOutstanding (handOver (countHits p k.channel (coveredLines r))
      [passThrough r (.direct r.tag k.channel)]) k.channel) := by
  have ha := (allDurable_iff _).mpr hd
  simp only [takeOpenWrite, hl, Bool.false_eq_true, if_false, ha, if_true]

/-- Any other joins with its lines looked up (R44, R53). -/
theorem takeOpenWrite_touching (hl : sharesHeld p.hold.queue r = false)
    (hd : ∃ l ∈ (coveredLines r).map (lookedUp p k.channel), l.changed = true ∧ l.sub ≠ .durable) :
    takeOpenWrite p r k = joinHold (countHits p k.channel (coveredLines r))
      (newEntry (countHits p k.channel (coveredLines r)) r k (some (chan p k.channel).epoch)
        (lookedUpState ((coveredLines r).map (lookedUp p k.channel))) ((coveredLines r).map (lookedUp p k.channel))) := by
  have ha : allDurable ((coveredLines r).map (lookedUp p k.channel)) = false := by
    rw [Bool.eq_false_iff, Ne, allDurable_iff]
    obtain ⟨l, hmem, hc, hs⟩ := hd
    exact fun h => hs (h l hmem hc)
  simp only [takeOpenWrite, hl, Bool.false_eq_true, if_false, ha]
  rfl

/-- A write of an OPEN channel that must join needs an entry (R56). -/
theorem takeOpenWrite_full (h : sharesHeld p.hold.queue r = true ∨
      ∃ l ∈ (coveredLines r).map (lookedUp p k.channel), l.changed = true ∧ l.sub ≠ .durable)
    (hq : 8 ≤ p.hold.queue.length) : takeOpenWrite p r k = none := by
  by_cases hl : sharesHeld p.hold.queue r = true
  · rw [takeOpenWrite_sharing hl, joinHold_full hq]
  · rw [takeOpenWrite_touching (Bool.eq_false_iff.mpr hl) (h.resolve_left hl)]
    exact joinHold_full (p := countHits p k.channel (coveredLines r)) hq _

/-- Where looked-up lines bring a write: it waits for copies while a changed line is PENDING (R53). -/
theorem lookedUpState_eq (ls : List HoldLine) [Decidable (∃ l ∈ ls, l.changed = true ∧ l.sub = .pending)] :
    lookedUpState ls = if ∃ l ∈ ls, l.changed = true ∧ l.sub = .pending then .waitCopy else .recording := by
  have h : (ls.any HoldLine.isPending = true) ↔ ∃ l ∈ ls, l.changed = true ∧ l.sub = .pending := by
    simp [HoldLine.isPending]
  exact if_congr h rfl rfl

/-- A changed line with no record behind the frontier is not DURABLE after its lookup (R47). -/
theorem lookedUp_not_durable {c : Chan} {l : HoldLine} (hc : l.changed = true)
    (hn : ∀ n, trackerLookup p.tracker l.line c = some n → p.writer.frontier < n) :
    (lookedUp p c l).changed = true ∧ (lookedUp p c l).sub ≠ .durable := by
  cases h : trackerLookup p.tracker l.line c with
  | none => simp [lookedUp, hc, h]
  | some n => simp [lookedUp, hc, h, Nat.not_le.mpr (hn n h)]

end

/-! ### The request just classified, and the head taken again -/

section
variable {p q : Part} {r : Request} {rest : List IntakeEntry} {k : Classification}

/-- A request that the hold unit takes as it is classified (R5). -/
theorem holdOrWait_taken (h : holdTake (countedAtClassify p k) r k = some q) : holdOrWait p rest r k = settle q := by
  simp only [holdOrWait, h]

/-- One that needs an entry and finds none stays at the head, classified (R56). -/
theorem holdOrWait_waits (h : holdTake (countedAtClassify p k) r k = none) : holdOrWait p rest r k =
    { countedAtClassify p k with
      port := { (countedAtClassify p k).port with intake := { req := r, cls := some k } :: rest } } := by
  simp only [holdOrWait, h]

/-- CLASSIFY_REQUEST of a request that the hold unit takes (R5). -/
theorem exec_classifyRequest_taken (w : List Instr) (hq : p.port.intake = { req := r, cls := none } :: rest)
    (hd : destination p r = .hold k) (h : holdTake (countedAtClassify (dequeued p rest) k) r k = some q) :
    exec .classifyRequest ⟨p, w⟩ = .next ⟨settle q, w⟩ := by
  rw [exec_classifyRequest w hq hd, sent, holdOrWait_taken h]

/-- CLASSIFY_REQUEST of one that stays (R56). -/
theorem exec_classifyRequest_waits (w : List Instr) (hq : p.port.intake = { req := r, cls := none } :: rest)
    (hd : destination p r = .hold k) (h : holdTake (countedAtClassify (dequeued p rest) k) r k = none) :
    exec .classifyRequest ⟨p, w⟩ = .next ⟨{ countedAtClassify p k with
      port := { p.port with intake := { req := r, cls := some k } :: rest } }, w⟩ := by
  rw [exec_classifyRequest w hq hd, sent, holdOrWait_waits h]
  cases hc : k.counted <;> simp only [countedAtClassify, hc] <;> rfl

/-- The part with a waiting head taken out to be taken again. -/
def retried (p : Part) (rest : List IntakeEntry) : Part :=
  { p with port := { p.port with intake := rest }, hold := { p.hold with headRetry := false } }

/-- A head that the hold unit takes when it is taken again (R56). -/
theorem headRetryStep_taken (hq : p.port.intake = { req := r, cls := some k } :: rest) (hd : p.hold.headRetry = true)
    (h : holdTake (retried p rest) r k = some q) : headRetryStep p = some q := by
  unfold retried at h
  simp only [headRetryStep, hd, if_true, hq, h]

/-- One that finds no entry stays (R56). -/
theorem headRetryStep_stays (hq : p.port.intake = { req := r, cls := some k } :: rest) (hd : p.hold.headRetry = true)
    (h : holdTake (retried p rest) r k = none) :
    headRetryStep p = some { p with hold := { p.hold with headRetry := false } } := by
  unfold retried at h
  simp only [headRetryStep, hd, if_true, hq, h]

end

end Sys2Proof.Proofs

/-! The paths of a held read and of a write that waits, assembled (R10, R11, R39, R44, R45, R53, R56, R102, R166). -/

namespace Sys2Proof.Proofs

open Sys2Proof.Machine Sys2Proof.Laws

/-! ### Reads -/

section
variable {p : Part} {r : Request} {k : Classification}

/-- A read that something keeps joins while an entry is free: in WAIT_EPOCH of a channel that is rolling back, else in
WAIT_LINE (R44, log 43). -/
theorem takeRead_joins (h : (∃ s, (chan p k.channel).state = .rollingBack s) ∨ sharesHeld p.hold.queue r = true)
    (hq : p.hold.queue.length < 8) : ∃ st, takeRead p r k = some (joined p (newEntry p r k none st (coveredLines r))) ∧
      ((∃ s, (chan p k.channel).state = .rollingBack s) → st = .waitEpoch) ∧
      ((∀ s, (chan p k.channel).state ≠ .rollingBack s) → st = .waitLine) := by
  by_cases hs : ∃ s, (chan p k.channel).state = .rollingBack s
  · exact ⟨.waitEpoch, by rw [takeRead_rollingBack hs, joinHold_room hq], fun _ => rfl,
      fun hn => absurd hs (not_exists.mpr hn)⟩
  · exact ⟨.waitLine, by rw [takeRead_sharing (not_exists.mp hs) (h.resolve_left hs), joinHold_room hq],
      fun h' => absurd h' hs, fun _ => rfl⟩

/-- A read just classified is taken uncounted (R39, R44). -/
theorem holdTake_read_classified (hk : r.kind = .read) (hc : k.counted = false) :
    holdTake (countedAtClassify p k) r k = takeRead p r k := by
  rw [holdTake_read hk, countedAtClassify, hc]
  rfl

end

/-- Settles O12: the path of the read is `takeRead`, for a request just classified and for a head taken again. -/
theorem heldReadTakesItsPath : Obligations.HeldReadTakesItsPath := by
  rintro p w r rest i c k x d hke rfl rfl hk
  have hchan : c = k.channel := by rw [hke]
  have hcount : k.counted = false := by rw [hke]
  have hregion : i = k.region := by rw [hke]
  simp only [← joinDeadline_eq]
  refine ⟨fun hq hw hl hc hch hr => ?_, fun hq hd hs hl => ?_, fun hq hd hkeep => ⟨fun hroom => ?_, fun hfull => ?_⟩⟩
  · have hdest : destination p r = .hold k := by
      rw [destination_eq_hold hw hl hc hr (.inl hk), hke, hk, hch]; rfl
    have htake := holdTake_read_classified (p := dequeued p rest) hk hcount
    subst hchan hregion
    refine ⟨fun hs hf => ?_, fun hs hroom => ?_, fun hs hf hroom => ?_, fun hkeep hfull => ?_⟩
    · rw [exec_classifyRequest_taken w hq hdest (htake.trans (takeRead_free hs hf)), ← hk]; rfl
    · exact exec_classifyRequest_taken w hq hdest
        (htake.trans ((takeRead_rollingBack (p := dequeued p rest) hs).trans
          (joinHold_room (p := dequeued p rest) hroom _)))
    · exact exec_classifyRequest_taken w hq hdest
        (htake.trans ((takeRead_sharing (p := dequeued p rest) hs hf).trans
          (joinHold_room (p := dequeued p rest) hroom _)))
    · rw [exec_classifyRequest_waits w hq hdest (htake.trans (takeRead_full hkeep hfull)), countedAtClassify, hcount]; rfl
  · subst hchan
    rw [headRetryStep_taken hq hd ((holdTake_read hk).trans (takeRead_free hs hl)), ← hk]; rfl
  · subst hchan hregion
    obtain ⟨st, ht, hepoch, hline⟩ := takeRead_joins (p := retried p rest) hkeep hroom
    exact ⟨st, headRetryStep_taken hq hd ((holdTake_read hk).trans ht), hepoch, hline⟩
  · subst hchan
    exact headRetryStep_stays hq hd ((holdTake_read hk).trans (takeRead_full (p := retried p rest) hkeep hfull))

/-! ### Writes -/

section
variable {p : Part} {r : Request} {k : Classification}

/-- A write just classified, of a channel that is COMMITTING or rolling back (R44). -/
theorem holdTake_classified_waiting (hk : r.kind = .write) (hw : p.writer.state ≠ .halted) (hf : p.power.frozen = false)
    (hs : (chan p k.channel).state = .committing ∨ ∃ s, (chan p k.channel).state = .rollingBack s)
    (hc : k.counted = false) :
    holdTake (countedAtClassify p k) r k = joinHold p (newEntry p r k none .waitEpoch (coveredLines r)) := by
  have hcount : countedAtClassify p k = p := by rw [countedAtClassify, hc]; rfl
  rw [hcount, holdTake_write hk, takeWrite_rollingBack hw hf hs]

/-- A write just classified, of an OPEN channel: the channel counts it, and it goes by its lines (R39, R44). -/
theorem holdTake_classified_opened (hk : r.kind = .write) (hw : p.writer.state ≠ .halted) (hf : p.power.frozen = false)
    (hs : (chan p k.channel).state = .opened) (hc : k.counted = true) :
    holdTake (countedAtClassify p k) r k = takeOpenWrite (countJournaled p k.channel) r k := by
  have hcount : countedAtClassify p k = countJournaled p k.channel := if_pos hc
  have hs' : (chan (countJournaled p k.channel) k.channel).state = .opened := by rw [countJournaled, chan_modChan_self, hs]
  rw [hcount, holdTake_write hk, takeWrite_opened (p := countJournaled p k.channel) hw hf hs', if_pos hc]

/-- A write just classified while the writer is HALTED or the FROZEN indication set (R102, R166). -/
theorem holdTake_classified_refused (hk : r.kind = .write) (h : p.writer.state = .halted ∨ p.power.frozen = true) :
    holdTake (countedAtClassify p k) r k = some (respond (countedAtClassify p k) r.tag .refused []) := by
  have hw : (countedAtClassify p k).writer = p.writer := by rw [countedAtClassify]; split <;> rfl
  have hp : (countedAtClassify p k).power = p.power := by rw [countedAtClassify]; split <;> rfl
  rw [holdTake_write hk, takeWrite_refused]
  rw [hw, hp]
  exact h.imp_right .inl

/-- A write of an OPEN channel taken again is counted once and goes by its lines (R39, R56). -/
theorem holdTake_again_opened (hk : r.kind = .write) (hw : p.writer.state ≠ .halted) (hf : p.power.frozen = false)
    (hs : (chan p k.channel).state = .opened) : holdTake p r k = takeOpenWrite (modChan p k.channel fun ch =>
      { ch with journaledWrites := if k.counted then ch.journaledWrites else countUp ch.journaledWrites }) r k := by
  rw [holdTake_write hk, takeWrite_opened hw hf hs, countedOnce_eq]

end

/-- The lookup of a line, by what the tracker holds for it (R47). -/
theorem lookedUp_eq (p : Part) (c : Chan) (l : HoldLine) : lookedUp p c l =
    if l.changed then
      { l with sub := (trackerLookup p.tracker l.line c).elim .pending fun n =>
          if n ≤ p.writer.frontier then .durable else .placed n }
    else l := by
  unfold lookedUp
  split
  · cases trackerLookup p.tracker l.line c with
    | none => rfl
    | some n =>
      dsimp only [Option.elim_some]
      split <;> rfl
  · rfl

/-! ### A write just classified -/

section
variable {p : Part} {r : Request} {rest : List IntakeEntry} {k : Classification} (w : List Instr)
  (hq : p.port.intake = { req := r, cls := none } :: rest) (hd : destination p r = .hold k) (hk : r.kind = .write)
include hq hd hk

/-- A write of a channel that is COMMITTING or rolling back joins in WAIT_EPOCH, or stays at the head (R44, R56). -/
theorem classified_waiting (hw : p.writer.state ≠ .halted) (hf : p.power.frozen = false)
    (hs : (chan p k.channel).state = .committing ∨ ∃ s, (chan p k.channel).state = .rollingBack s)
    (hc : k.counted = false) :
    (p.hold.queue.length < 8 → exec .classifyRequest ⟨p, w⟩ = .next ⟨settle
      (joined (dequeued p rest) (newEntry p r k none .waitEpoch (coveredLines r))), w⟩) ∧
    (8 ≤ p.hold.queue.length → exec .classifyRequest ⟨p, w⟩ =
      .next ⟨{ p with port := { p.port with intake := { req := r, cls := some k } :: rest } }, w⟩) := by
  have htake := holdTake_classified_waiting (p := dequeued p rest) hk hw hf hs hc
  refine ⟨fun hroom => ?_, fun hfull => ?_⟩
  · rw [exec_classifyRequest_taken w hq hd (htake.trans (joinHold_room (p := dequeued p rest) hroom _))]; rfl
  · rw [exec_classifyRequest_waits w hq hd (htake.trans (joinHold_full (p := dequeued p rest) hfull _)),
      countedAtClassify, hc]
    rfl

/-- A write of an OPEN channel that shares a line with the queue is counted and joins in WAIT_LINE (R39, R44). -/
theorem classified_sharing (hw : p.writer.state ≠ .halted) (hf : p.power.frozen = false)
    (hs : (chan p k.channel).state = .opened) (hc : k.counted = true) (hl : sharesHeld p.hold.queue r = true)
    (hroom : p.hold.queue.length < 8) :
    exec .classifyRequest ⟨p, w⟩ = .next ⟨settle (joined (countJournaled (dequeued p rest) k.channel)
      (newEntry p r k (some (chan p k.channel).epoch) .waitLine (coveredLines r))), w⟩ := by
  have hepoch : (chan (countJournaled (dequeued p rest) k.channel) k.channel).epoch = (chan p k.channel).epoch := by
    rw [countJournaled, chan_modChan_self]; rfl
  have htake := holdTake_classified_opened (p := dequeued p rest) hk hw hf hs hc
  rw [takeOpenWrite_sharing (p := countJournaled (dequeued p rest) k.channel) hl, hepoch,
    joinHold_room (p := countJournaled (dequeued p rest) k.channel) hroom] at htake
  rw [exec_classifyRequest_taken w hq hd htake]
  rfl

/-- A write of an OPEN channel that must join is counted and stays at the head of a full queue (R39, R56). -/
theorem classified_full (hw : p.writer.state ≠ .halted) (hf : p.power.frozen = false)
    (hs : (chan p k.channel).state = .opened) (hc : k.counted = true)
    (hl : sharesHeld p.hold.queue r = true ∨
      ∃ l ∈ (coveredLines r).map (lookedUp p k.channel), l.changed = true ∧ l.sub ≠ .durable)
    (hfull : 8 ≤ p.hold.queue.length) :
    exec .classifyRequest ⟨p, w⟩ = .next ⟨{ countJournaled p k.channel with
      port := { p.port with intake := { req := r, cls := some k } :: rest } }, w⟩ := by
  have htake := holdTake_classified_opened (p := dequeued p rest) hk hw hf hs hc
  rw [takeOpenWrite_full (p := countJournaled (dequeued p rest) k.channel) hl hfull] at htake
  rw [exec_classifyRequest_waits w hq hd htake, countedAtClassify, if_pos hc]

/-- A write while the writer is HALTED or the FROZEN indication set is answered REFUSED; one of an OPEN channel counts
(R39, R102, R166). -/
theorem classified_refused (h : p.writer.state = .halted ∨ p.power.frozen = true) :
    exec .classifyRequest ⟨p, w⟩ =
      .next ⟨settle (respond (countedAtClassify (dequeued p rest) k) r.tag .refused []), w⟩ :=
  exec_classifyRequest_taken w hq hd (holdTake_classified_refused (p := dequeued p rest) hk h)

end

/-! ### A write taken again -/

section
variable {p : Part} {r : Request} {rest : List IntakeEntry} {k : Classification}
  (hq : p.port.intake = { req := r, cls := some k } :: rest) (hd : p.hold.headRetry = true) (hk : r.kind = .write)
include hq hd hk

/-- A head that is refused when it is taken again (R56, R102, R166). -/
theorem again_refused (h : p.writer.state = .halted ∨ p.power.frozen = true ∨ (chan p k.channel).state = .idle) :
    headRetryStep p = some (respond (retried p rest) r.tag .refused []) :=
  headRetryStep_taken hq hd ((holdTake_write hk).trans (takeWrite_refused (p := retried p rest) h))

variable (hw : p.writer.state ≠ .halted) (hf : p.power.frozen = false)
include hw hf

/-- A head of a channel that is COMMITTING or rolling back (R44, R56). -/
theorem again_waiting (hs : (chan p k.channel).state = .committing ∨ ∃ s, (chan p k.channel).state = .rollingBack s)
    (hroom : p.hold.queue.length < 8) :
    headRetryStep p = some (joined (retried p rest) (newEntry p r k none .waitEpoch (coveredLines r))) := by
  have htake := (holdTake_write hk).trans (takeWrite_rollingBack (p := retried p rest) hw hf hs)
  rw [joinHold_room (p := retried p rest) hroom] at htake
  rw [headRetryStep_taken hq hd htake]
  rfl

/-- A head that must join and finds no entry free (R56). -/
theorem again_full
    (hs : ((chan p k.channel).state = .committing ∨ ∃ s, (chan p k.channel).state = .rollingBack s) ∨
      ((chan p k.channel).state = .opened ∧ (sharesHeld p.hold.queue r = true ∨
        ∃ l ∈ (coveredLines r).map (lookedUp p k.channel), l.changed = true ∧ l.sub ≠ .durable)))
    (hfull : 8 ≤ p.hold.queue.length) :
    headRetryStep p = some { p with hold := { p.hold with headRetry := false } } := by
  refine headRetryStep_stays hq hd ?_
  rcases hs with hs | ⟨hs, hl⟩
  · rw [holdTake_write hk, takeWrite_rollingBack (p := retried p rest) hw hf hs,
      joinHold_full (p := retried p rest) hfull]
  · rw [holdTake_again_opened (p := retried p rest) hk hw hf hs]
    exact takeOpenWrite_full (p := modChan (retried p rest) k.channel _) hl hfull

variable (hs : (chan p k.channel).state = .opened)
include hs

/-- A head of an OPEN channel that shares a line with the queue (R39, R44, R56). -/
theorem again_sharing (hl : sharesHeld p.hold.queue r = true) (hroom : p.hold.queue.length < 8) :
    headRetryStep p = some (joined
      (modChan (retried p rest) k.channel fun ch =>
        { ch with journaledWrites := if k.counted then ch.journaledWrites else countUp ch.journaledWrites })
      (newEntry p r k (some (chan p k.channel).epoch) .waitLine (coveredLines r))) := by
  have htake := holdTake_again_opened (p := retried p rest) hk hw hf hs
  rw [takeOpenWrite_sharing (p := modChan (retried p rest) k.channel _) hl, chan_modChan_self,
    joinHold_room (p := modChan (retried p rest) k.channel _) hroom] at htake
  rw [headRetryStep_taken hq hd htake]
  rfl

/-- A head of an OPEN channel with every changed line DURABLE goes down as a direct write (R45, log 42). -/
theorem again_direct (hl : sharesHeld p.hold.queue r = false)
    (hdur : ∀ l ∈ (coveredLines r).map (lookedUp p k.channel), l.changed = true → l.sub = .durable) :
    headRetryStep p = some (handOver
      (modChan (retried p rest) k.channel fun ch => { ch with
        journaledWrites := if k.counted then ch.journaledWrites else countUp ch.journaledWrites,
        trackerHits := countBy ((coveredLines r).countP fun l =>
          l.changed && (trackerLookup p.tracker l.line k.channel).isSome) ch.trackerHits,
        outstanding := ch.outstanding + 1 })
      [passThrough r (.direct r.tag k.channel)]) := by
  have htake := holdTake_again_opened (p := retried p rest) hk hw hf hs
  rw [takeOpenWrite_direct (p := modChan (retried p rest) k.channel _) hl hdur] at htake
  rw [headRetryStep_taken hq hd htake, countOutstanding, modChan_handOver, countHits, modChan_modChan, modChan_modChan]
  rfl

/-- Any other head of an OPEN channel joins with its lines looked up (R44, R53, R56). -/
theorem again_touching (hl : sharesHeld p.hold.queue r = false)
    (htouch : ∃ l ∈ (coveredLines r).map (lookedUp p k.channel), l.changed = true ∧ l.sub ≠ .durable)
    (hroom : p.hold.queue.length < 8) :
    headRetryStep p = some (joined
      (modChan (retried p rest) k.channel fun ch => { ch with
        journaledWrites := if k.counted then ch.journaledWrites else countUp ch.journaledWrites,
        trackerHits := countBy ((coveredLines r).countP fun l =>
          l.changed && (trackerLookup p.tracker l.line k.channel).isSome) ch.trackerHits })
      (newEntry p r k (some (chan p k.channel).epoch) (lookedUpState ((coveredLines r).map (lookedUp p k.channel)))
        ((coveredLines r).map (lookedUp p k.channel)))) := by
  have htake := holdTake_again_opened (p := retried p rest) hk hw hf hs
  rw [takeOpenWrite_touching (p := modChan (retried p rest) k.channel _) hl htouch, chan_modChan_self, countHits,
    modChan_modChan, joinHold_room (p := modChan (retried p rest) k.channel _) hroom] at htake
  rw [headRetryStep_taken hq hd htake]
  rfl

end

/-- Settles O11: the path of the write is `takeWrite`, for a request just classified and for a head taken again. -/
theorem writeWaits : Obligations.WriteWaits := by
  refine ⟨?_, fun p h => by simp [headRetryStep, h], ?_⟩
  · rintro p w r rest i c x hq hwin hl hc rfl hr hk rfl
    simp only [← joinDeadline_eq]
    have hdest : ∀ b, (chan p (getAt p.classifier.regions i).channel).state ≠ .idle →
        ((chan p (getAt p.classifier.regions i).channel).state == .opened) = b → destination p r = .hold
          { cls := (getAt p.classifier.regions i).cls, channel := (getAt p.classifier.regions i).channel, region := i,
            counted := b } := by
      rintro b hs rfl
      rw [destination_eq_hold hwin hl hc hr (.inr hs), hk]; rfl
    refine ⟨fun hw hf hs => ?_, fun hw hf hs hshare => ?_, fun hw hf hs hshare hfull hfirst => ?_, fun hstop hs => ?_⟩
    · have hd := hdest false (by rcases hs with hs | ⟨s, hs⟩ <;> simp [hs])
        (by rcases hs with hs | ⟨s, hs⟩ <;> simp [hs])
      exact (classified_waiting w hq hd hk hw hf hs rfl :)
    · have hd := hdest true (by simp [hs]) (by simp [hs])
      exact ⟨(classified_sharing w hq hd hk hw hf hs rfl hshare :),
        (classified_full w hq hd hk hw hf hs rfl (.inl hshare) :)⟩
    · have hd := hdest true (by simp [hs]) (by simp [hs])
      obtain ⟨l, hmem, hchanged, hnew⟩ := hfirst
      exact (classified_full w hq hd hk hw hf hs rfl
        (.inr ⟨_, List.mem_map_of_mem hmem, lookedUp_not_durable hchanged hnew⟩) hfull :)
    · by_cases ho : (chan p (getAt p.classifier.regions i).channel).state = .opened
      · rw [classified_refused w hq (hdest true hs (by simp [ho])) hk hstop, if_pos ho]; rfl
      · rw [classified_refused w hq (hdest false hs (by simp [ho])) hk hstop, if_neg ho]; rfl
  · rintro p _ r rest k _ _ ls _ _ hq hd hk rfl rfl rfl rfl hls rfl
    simp only [← joinDeadline_eq]
    have hls' : ls = (coveredLines r).map (lookedUp p k.channel) := hls.trans <| List.map_congr_left fun l _ => by
      rw [lookedUp_eq]
      cases trackerLookup p.tracker l.line k.channel <;> rfl
    rw [hls']
    refine ⟨again_refused hq hd hk, fun hw hf => ⟨again_waiting hq hd hk hw hf, fun hs => again_sharing hq hd hk hw hf hs,
      fun hs hl hdur => ?_, fun hs hl htouch hroom => ?_, again_full hq hd hk hw hf⟩⟩
    · rw [again_direct hq hd hk hw hf hs hl hdur, ← hk]; rfl
    · rw [again_touching hq hd hk hw hf hs hl htouch hroom, lookedUpState_eq]; rfl

end Sys2Proof.Proofs

/-! The end of an epoch, committed or aborted, as one internal event, and which of several durable commits ends first (R32, R36 to
R41, R117, R124). -/

namespace Sys2Proof.Proofs

open Sys2Proof.Machine Sys2Proof.Laws

/-! ### Counters and rows -/

/-- A counter counts one more and stays at its highest value (R6, R39, R41). -/
theorem countUp_toNat (x : Word) : (countUp x).toNat = min (x.toNat + 1) 0xFFFFFFFF := by
  unfold countUp
  split
  next h => rw [beq_iff_eq] at h; subst h; rfl
  next h =>
    rw [beq_iff_eq] at h
    bv_omega

/-- A counter counts n more and stays at its highest value (R39). -/
theorem countBy_toNat (n : Nat) (x : Word) : (countBy n x).toNat = min (x.toNat + n) 0xFFFFFFFF := by
  unfold countBy
  split
  next h => exact (Nat.min_eq_right h).symm
  next h =>
    rw [BitVec.toNat_add, BitVec.toNat_ofNat]
    omega

/-- A write to one place of a row leaves the others. -/
theorem getAt_setAt {α : Type} {n : Nat} (v : Vector α n) (i j : Fin n) (x : α) :
    getAt (setAt v i x) j = if i = j then x else getAt v j := by
  split
  next h => subst h; exact getAt_setAt_self v i x
  next h => exact getAt_setAt_ne v x h

/-! ### The first durable commit (log 12) -/

/-- A COMMIT marker whose record is placed and behind the frontier (R32). -/
theorem commitDurable_iff (p : Part) (d : Chan) (n : Seq) : commitDurable p d = some n ↔
    ∃ y, (chan p d).marker = some y ∧ y.action = .commit ∧ y.record = some n ∧ n ≤ p.writer.frontier := by
  unfold commitDurable
  cases (chan p d).marker with
  | none => simp
  | some y =>
    cases hr : y.record with
    | none => simp [hr]
    | some m =>
      simp only [hr, Bool.and_eq_true, beq_iff_eq, decide_eq_true_eq, Option.some.injEq, exists_eq_left',
        Option.ite_none_right_eq_some, and_assoc]
      constructor
      · rintro ⟨ha, hm, rfl⟩; exact ⟨ha, rfl, hm⟩
      · rintro ⟨ha, rfl, hm⟩; exact ⟨ha, hm, rfl⟩

/-- The better of the best durable commit so far and a channel's: the lower number. -/
def earlier (f : Chan → Option Seq) (best : Option (Seq × Chan)) (c : Chan) : Option (Seq × Chan) :=
  match f c, best with
  | none, _ => best
  | some n, none => some (n, c)
  | some n, some b => if n < b.1 then some (n, c) else some b

/-- What is the best of a list of candidates: none when there is none, else one with the least number. -/
def IsBest (f : Chan → Option Seq) (among : Chan → Prop) (best : Option (Seq × Chan)) : Prop :=
  match best with
  | none => ∀ c, among c → f c = none
  | some b => f b.2 = some b.1 ∧ ∀ c n, among c → f c = some n → b.1 ≤ n

/-- Looking at one more channel keeps the best. -/
theorem isBest_earlier {f : Chan → Option Seq} {among : Chan → Prop} {best : Option (Seq × Chan)} (c : Chan)
    (h : IsBest f among best) : IsBest f (fun d => among d ∨ d = c) (earlier f best c) := by
  cases hc : f c with
  | none =>
    have he : earlier f best c = best := by unfold earlier; rw [hc]
    rw [he]
    cases best with
    | none =>
      rintro d (hd | rfl)
      exacts [h d hd, hc]
    | some b =>
      refine ⟨h.1, ?_⟩
      rintro d n (hd | rfl) hn
      · exact h.2 d n hd hn
      · simp [hc] at hn
  | some m =>
    cases best with
    | none =>
      have he : earlier f none c = some (m, c) := by unfold earlier; rw [hc]
      rw [he]
      refine ⟨hc, ?_⟩
      rintro d n (hd | rfl) hn
      · simp [h d hd] at hn
      · rw [hc, Option.some.injEq] at hn
        exact hn.le
    | some b =>
      have he : earlier f (some b) c = if m < b.1 then some (m, c) else some b := by unfold earlier; rw [hc]
      rw [he]
      split
      next hlt =>
        refine ⟨hc, ?_⟩
        rintro d n (hd | rfl) hn
        · exact hlt.le.trans (h.2 d n hd hn)
        · rw [hc, Option.some.injEq] at hn
          exact hn.le
      next hge =>
        refine ⟨h.1, ?_⟩
        rintro d n (hd | rfl) hn
        · exact h.2 d n hd hn
        · rw [hc, Option.some.injEq] at hn
          exact hn ▸ Nat.le_of_not_lt hge

/-- The best of a list of channels. -/
theorem isBest_foldl (f : Chan → Option Seq) (l : List Chan) {among : Chan → Prop} {best : Option (Seq × Chan)}
    (h : IsBest f among best) : IsBest f (fun d => among d ∨ d ∈ l) (l.foldl (earlier f) best) := by
  induction l generalizing among best with
  | nil => simpa using h
  | cons c l ih =>
    have := ih (isBest_earlier c h)
    simpa only [List.mem_cons, List.foldl_cons, or_assoc] using this

/-- The first durable commit is the best of the four channels. -/
theorem firstDurable_spec (p : Part) : ∃ best, firstDurable p = best.map (·.2) ∧
    IsBest (commitDurable p) (fun _ => True) best := by
  refine ⟨allChannels.foldl (earlier (commitDurable p)) none, rfl, ?_⟩
  have h : IsBest (commitDurable p) (fun _ => False) none := fun _ h => h.elim
  have hmem : ∀ d : Chan, d ∈ allChannels := by decide
  simpa only [false_or, hmem] using isBest_foldl (commitDurable p) allChannels h

/-- None is due when no commit is durable (R32). -/
theorem firstDurable_eq_none (p : Part) : firstDurable p = none ↔ ∀ d n, commitDurable p d ≠ some n := by
  obtain ⟨best, he, hb⟩ := firstDurable_spec p
  rw [he]
  cases best with
  | none => simpa using fun d n => by simp [hb d trivial]
  | some b => simpa using ⟨b.2, b.1, hb.1⟩

/-- The first is durable, with the lowest number (log 12). -/
theorem firstDurable_least {p : Part} {d : Chan} (h : firstDurable p = some d) :
    ∃ n, commitDurable p d = some n ∧ ∀ d' n', commitDurable p d' = some n' → n ≤ n' := by
  obtain ⟨best, he, hb⟩ := firstDurable_spec p
  rw [he, Option.map_eq_some_iff] at h
  obtain ⟨b, rfl, rfl⟩ := h
  exact ⟨b.1, hb.1, fun d' n' hn => hb.2 d' n' trivial hn⟩

/-! ### The closing actions -/

/-- The outcome of an epoch, by whether it was aborted. -/
def outcomeOf (aborted : Bool) : EpochOutcome := if aborted then .aborted else .committed

/-- A channel whose epoch has ended, with its marker settled (R37 to R41, log 47). -/
def endedChannel (ch : Channel) (aborted fault : Bool) (code : RespCode) (why : MarkerReason) : Channel := { ch with
  journaledWrites := 0, records := 0, trackerHits := 0, untrackedSaves := 0, holdExpiries := 0,
  summary := { epoch := ch.epoch, outcome := outcomeOf aborted, journaledWrites := ch.journaledWrites, saves := ch.records,
               trackerHits := ch.trackerHits, untrackedSaves := ch.untrackedSaves, holdExpiries := ch.holdExpiries,
               torn := ch.torn, overflow := ch.overflow, faulted := fault },
  committed := if aborted then ch.committed else countUp ch.committed,
  aborted := if aborted then countUp ch.aborted else ch.aborted,
  resolved := ch.epoch, torn := false, overflow := false, tornRecord := none, marker := none,
  last := { ch.last with result := code.asResult, reason := why },
  state := if ch.epoch = Config.lastEpoch then .idle else .opened,
  exhausted := if ch.epoch = Config.lastEpoch then true else ch.exhausted,
  epoch := if ch.epoch = Config.lastEpoch then ch.epoch else ch.epoch + 1 }

/-- It is what steps 3 to 5 leave of the channel, with the marker settled. -/
theorem endedChannel_eq (ch : Channel) (aborted fault : Bool) (code : RespCode) (why : MarkerReason) :
    { closedChannel ch (outcomeOf aborted) fault with
      marker := none,
      last := { (closedChannel ch (outcomeOf aborted) fault).last with result := code.asResult, reason := why } } =
      endedChannel ch aborted fault code why := by
  by_cases h : ch.epoch = Config.lastEpoch
  · simp only [closedChannel, endedChannel, beq_iff_eq, if_pos h]
    cases aborted <;> rfl
  · simp only [closedChannel, endedChannel, beq_iff_eq, if_neg h]
    cases aborted <;> rfl

/-- A segment entry without a channel in its mask, reclaimed when it is CLOSED and its mask is empty (R36, R104). -/
def swept (retain : Bool) (c : Chan) (e : SegEntry) : SegEntry :=
  { e with mask := e.mask &&& ~~~ (1#4 <<< c.val),
           state := if e.state = .closed ∧ e.mask &&& ~~~ (1#4 <<< c.val) = 0
             then if retain then .held else .free else e.state }

/-- Clearing the mask and sweeping, entry by entry. -/
theorem swept_eq (retain : Bool) (c : Chan) (t : List SegEntry) :
    ((t.map fun e => { e with mask := e.mask &&& ~~~ maskBit c }).map fun e =>
      if e.state == .closed && e.mask == 0 then { e with state := if retain then .held else .free } else e) =
      t.map (swept retain c) := by
  rw [List.map_map]
  refine List.map_congr_left fun e _ => ?_
  simp only [Function.comp_apply, swept, maskBit, Bool.and_eq_true, beq_iff_eq]
  split <;> rfl

/-- SEGMENT_HELD is raised when a CLOSED segment becomes HELD (R104). -/
theorem any_reclaimed_iff (retain : Bool) (c : Chan) (t : List SegEntry) :
    (retain && (t.map fun e : SegEntry => { e with mask := e.mask &&& ~~~ maskBit c }).any fun e : SegEntry =>
      e.state == .closed && e.mask == 0) = true ↔
      retain = true ∧ ∃ e ∈ t, e.state = .closed ∧ (swept retain c e).state = .held := by
  rw [Bool.and_eq_true]
  refine and_congr_right fun hr => ?_
  subst hr
  simp only [List.any_map, List.any_eq_true, Function.comp_apply, Bool.and_eq_true, beq_iff_eq]
  refine exists_congr fun e => and_congr_right fun _ => and_congr_right fun hs => ?_
  simp [swept, maskBit, hs]

/-- The closing actions and the settled marker, as one record (R36 to R41). -/
theorem settleMarker_closeEpoch (p : Part) (c : Chan) (aborted fault : Bool) (code : RespCode) (why : MarkerReason) :
    settleMarker (closeEpoch p c (outcomeOf aborted) fault) c code why = { p with
      tracker := p.tracker.filter (fun x => x.channel != c),
      writer := { p.writer with table := p.writer.table.map (swept p.writer.retain c) },
      channels := setAt p.channels c (endedChannel (chan p c) aborted fault code why),
      events := { p.events with
        flags := if p.writer.retain = true ∧
              ∃ e ∈ p.writer.table, e.state = .closed ∧ (swept p.writer.retain c e).state = .held
          then p.events.flags ||| eventMask .segmentHeld else p.events.flags } } := by
  rw [closeEpoch_eq, swept_eq, if_congr (any_reclaimed_iff ..) rfl rfl, settleMarker]
  simp only [modChan, chan, getAt_setAt_self, setAt_setAt, endedChannel_eq]

/-- The end of an epoch with a marker in progress: the closing actions and the settled marker, the release, and then the
response (log 44). -/
theorem epochEnd_eq {p : Part} {c : Chan} {m : Marker} (h : (chan p c).marker = some m) (o : EpochOutcome) (fault : Bool)
    (code : RespCode) (why : MarkerReason) : epochEnd p c o fault code why =
      respond (releaseEpoch (settleMarker (closeEpoch p c o fault) c code why) c) m.tag code [] := by
  simp only [epochEnd, h]

/-! ### The internal event that ends it -/

section
variable {p : Part} {c : Chan}

/-- With no entry to forward, a durable commit comes first (log 12). -/
theorem internal_of_durable (hq : forwardStep p = none) (hd : firstDurable p = some c) :
    internal p = some (commitEnd p c) := by
  simp [internal, hq, commitEndStep, hd]

/-- Next comes the rollback being served (log 12). -/
theorem internal_of_rollback {q : Part} (hq : forwardStep p = none) (hd : firstDurable p = none)
    (hr : rollbackStep p = some q) : internal p = some q := by
  simp [internal, hq, commitEndStep, hd, hr]

/-- Then, with no line test due, a drained commit asks for its record or completes (log 9). -/
theorem internal_of_ready (hq : forwardStep p = none) (hd : firstDurable p = none) (hr : rollbackStep p = none)
    (hl : p.hold.lineTest = false) (hc : allChannels.find? (commitReady p) = some c) :
    internal p = some (commitAsks p c) := by
  simp [internal, hq, commitEndStep, hd, hr, lineTestStep, hl, commitAskStep, hc]

/-- A drained commit whose epoch left nothing completes at once (R31). -/
theorem commitAsks_empty (hr : (chan p c).records = 0) (ht : (chan p c).torn = false) : commitAsks p c = commitEnd p c :=
  if_pos (by simp [hr, ht])

/-- A rollback with its marker unanswered ends when its ABORT record is behind the frontier, or when its settled drain is
and the epoch left nothing (R117, R124). -/
theorem rollbackStep_ends {x : Rollback} {m : Marker} (hx : p.restore.rollback = some x)
    (hm : (chan p x.channel).marker = some m)
    (h : (∃ n, x.abortRecord = some n ∧ n ≤ p.writer.frontier) ∨
      (x.abortRecord = none ∧ x.phase = .draining ∧ (∃ n, x.start = some n ∧ n ≤ p.writer.frontier) ∧
        (chan p x.channel).records = 0 ∧ (chan p x.channel).torn = false)) :
    rollbackStep p = some (rollbackEnd p x) := by
  have halive : rollbackAlive p = true := by simp [rollbackAlive, hx, markerPresent, hm]
  rcases h with ⟨n, ha, hn⟩ | ⟨ha, hphase, ⟨n, hs, hn⟩, hr, ht⟩
  · simp [rollbackStep, hx, halive, ha, hn]
  · simp [rollbackStep, hx, halive, ha, hphase, hs, hn, leaveDraining, hr, ht]

end

/-- A commit that completes: the end of the epoch with the marker answered DONE, and the events (R32, R38). -/
theorem commitEnd_eq {p s : Part} {c : Chan} {m : Marker} (hm : (chan p c).marker = some m)
    (hs : s = releaseEpoch (settleMarker (closeEpoch p c .committed false) c .done
      (if (chan p c).torn then .torn else .none)) c) :
    commitEnd p c = { s with
      port := { s.port with tags := setAt s.port.tags m.tag false,
                            responses := s.port.responses ++ [{ tag := m.tag, code := .done, data := [] }] },
      events := { s.events with flags := if (chan p c).torn
        then s.events.flags ||| eventMask .commitDone ||| eventMask .epochTorn
        else s.events.flags ||| eventMask .commitDone } } := by
  unfold commitEnd
  dsimp only
  rw [epochEnd_eq hm, ← hs]
  cases (chan p c).torn <;> rfl

/-- A rollback that ends: the end of the epoch without the context, the marker's answer, and ABORT_DONE (R124). -/
theorem rollbackEnd_eq {p s : Part} {x : Rollback} {m : Marker} {code : RespCode} {why : MarkerReason}
    (hm : (chan p x.channel).marker = some m)
    (hcode : code = if x.fault = true ∨ (chan p x.channel).torn = true then .failed else .done)
    (hwhy : why = if x.fault then .fault else if (chan p x.channel).torn then .torn else .none)
    (hs : s = releaseEpoch (settleMarker (closeEpoch { p with restore := { p.restore with rollback := none } }
      x.channel .aborted x.fault) x.channel code why) x.channel) :
    rollbackEnd p x = { s with
      port := { s.port with tags := setAt s.port.tags m.tag false,
                            responses := s.port.responses ++ [{ tag := m.tag, code := code, data := [] }] },
      events := { s.events with flags := s.events.flags ||| eventMask .abortDone } } := by
  have hanswer : (if x.fault then (.failed, .fault) else if (chan p x.channel).torn then (.failed, .torn)
      else (.done, .none) : RespCode × MarkerReason) = (code, why) := by
    rw [hcode, hwhy]
    cases x.fault <;> cases (chan p x.channel).torn <;> rfl
  have hm' : (chan { p with restore := { p.restore with rollback := none } } x.channel).marker = some m := hm
  unfold rollbackEnd
  dsimp only
  rw [hanswer, epochEnd_eq hm', ← hs]
  rfl

/-- Settles O25: whatever ends the epoch, the event is the closing actions with the marker settled, the release and the
answer. -/
theorem epochEndIsOneEvent : Obligations.EpochEndIsOneEvent := by
  refine ⟨countUp_toNat, countBy_toNat, fun α n => getAt_setAt, fun _ _ => rfl, rfl, ?_⟩
  rintro p q s c m ch ch' _ aborted fault code why hq rfl hm rfl hcode hwhy hch' hqq hs
  have hforward : forwardStep p = none := by
    rw [forwardStep, Option.map_eq_none_iff, List.find?_eq_none]
    exact fun e he => by simp [hq e he]
  have hended : q = settleMarker (closeEpoch (if aborted then { p with restore := { p.restore with rollback := none } } else p)
      c (outcomeOf aborted) fault) c code why := by
    rw [settleMarker_closeEpoch, hqq, hch']
    cases aborted <;> rfl
  refine ⟨?_, ?_, ?_⟩
  · rintro ⟨rfl, rfl, h⟩
    have hc := commitEnd_eq (s := s) hm (by rw [hs, hended, hcode, hwhy]; rfl)
    rw [hcode]
    rcases h with hd | ⟨hd, hr, hl, hready, hrec, htorn⟩
    · rw [internal_of_durable hforward hd, hc]; rfl
    · rw [internal_of_ready hforward hd hr hl hready, commitAsks_empty hrec htorn, hc]; rfl
  · rintro ⟨x, rfl, hd, hx, rfl, rfl, hend⟩
    have he := rollbackEnd_eq (s := s) (code := code) (why := why) hm (by simpa using hcode) hwhy (by rw [hs, hended]; rfl)
    rw [internal_of_rollback hforward hd (rollbackStep_ends hx hm hend), he]
  · rintro _ rfl
    simp only [← commitDurable_iff]
    exact ⟨firstDurable_eq_none p, fun d => firstDurable_least⟩

end Sys2Proof.Proofs

/-! CLASSIFY_REQUEST for a marker and for the first touch of an OPEN channel (R26 to R29, R35, R39, R43 to R45, R47, R113). -/

namespace Sys2Proof.Proofs

open Sys2Proof.Machine Sys2Proof.Laws

/-- Settles O2: the empty queue's arm of `step`. -/
theorem idleStepLetsTimePass : Obligations.IdleStepLetsTimePass := by
  intro s h
  simp only [step, h, Part.ticked]

/-! ### Markers -/

/-- A write that meets R26's conditions is a marker. -/
theorem isMarker_eq_true {r : Request} {code : Word} (hlen : r.len = 16) (haddr : r.addr.toNat % 16 = 0)
    (hen : r.enables = List.replicate 16 true) (hcode : wordAt r.data 0 = code) : isMarker r code = true := by
  simp [isMarker, hlen, haddr, hen, hcode]

/-- The action that a marker asks for, by its word 1 (R25). -/
theorem markerAction_eq (r : Request) : markerAction r =
    if wordAt r.data 1 = 1 then .commit else if wordAt r.data 1 = 2 then .abort else .none := by
  simp [markerAction]

/-- CLASSIFY_REQUEST of a recognised marker checks it against its channel and carries out what that makes due (R26, R27). -/
theorem exec_classifyRequest_marker {p : Part} {r : Request} {rest : List IntakeEntry} {i : Fin 16} (w : List Instr)
    (hq : p.port.intake = { req := r, cls := none } :: rest)
    (hw : inWindow p.classifier.geometry r.addr.toNat = false)
    (hl : lookupRegion p.classifier.regions (pageOf r.addr) = some i)
    (hc : (getAt p.classifier.regions i).cls = .marker) (hr : p.restore.recovery = .ready) (hk : r.kind = .write)
    (hm : isMarker r (chan p (getAt p.classifier.regions i).channel).code = true) :
    exec .classifyRequest ⟨p, w⟩ =
      .next ⟨settle (markerChecked (dequeued p rest) r (getAt p.classifier.regions i).channel), w⟩ := by
  rw [exec_classifyRequest w hq (destination_eq_candidate hw hl hc hr hk), sent, candidateTaken]
  exact congrArg (fun q => Host.Outcome.next (State.mk q w)) (if_pos hm)

/-- The outcome of R27's table for a marker of a channel: the code and the reason of the first condition that holds. -/
def turnedDownBy (p : Part) (r : Request) (ch : Channel) : Option (RespCode × MarkerReason) :=
  if wordAt r.data 1 ≠ 1 ∧ wordAt r.data 1 ≠ 2 then some (RespCode.refused, MarkerReason.unknownAction)
  else if ch.state ≠ .opened then some (.refused, .channelState)
  else if wordAt r.data 2 ≠ 0 ∧ wordAt r.data 2 ≠ ch.epoch then some (.refused, .epochMismatch)
  else if p.writer.state = .halted then some (.failed, .writerHalted)
  else if p.writer.state = .frozen then some (.refused, .frozen)
  else none

/-- A marker that asks for neither COMMIT nor ABORT has no action. -/
theorem markerAction_eq_none (r : Request) :
    (markerAction r == .none) = true ↔ wordAt r.data 1 ≠ 1 ∧ wordAt r.data 1 ≠ 2 := by
  rw [markerAction_eq, beq_iff_eq]
  split
  next h => simp [h]
  next h => split <;> simp_all

/-- The check of a marker follows R27's table: the first condition that holds turns it down, and none takes it. -/
theorem markerChecked_eq (p : Part) (r : Request) (c : Chan) :
    markerChecked p r c = match turnedDownBy p r (chan p c) with
      | some (code, why) => turnDown p r c (markerAction r) code why
      | none => if markerAction r == .commit then takeCommit p r c else takeAbort p r c := by
  unfold markerChecked turnedDownBy
  by_cases ha : wordAt r.data 1 ≠ 1 ∧ wordAt r.data 1 ≠ 2
  · have hn := (markerAction_eq_none r).mpr ha
    rw [if_pos ha]
    simp only [hn, if_true]
    rw [beq_iff_eq] at hn
    rw [hn]
  · have hn : ¬ (markerAction r == .none) = true := fun h => ha ((markerAction_eq_none r).mp h)
    rw [if_neg ha]
    simp only [hn, if_false, bne_iff_ne, Bool.and_eq_true, beq_iff_eq, ne_eq, Bool.false_eq_true]
    split_ifs <;> rfl

/-! ### A part at rest -/

/-- At rest none of the eleven internal events is due (log 9). -/
theorem atRest_iff (p : Part) : p.AtRest ↔ forwardStep p = none ∧ commitEndStep p = none ∧ rollbackStep p = none ∧
    lineTestStep p = none ∧ commitAskStep p = none ∧ abortStep p = none ∧ resumeStep p = none ∧ waitingStep p = none ∧
    heldStep p = none ∧ headRetryStep p = none ∧ assignSlot p = none := by
  simp only [Part.AtRest, internal, Option.or_eq_none_iff]

/-- No line test is due (R54). -/
theorem lineTestStep_eq_none_iff (p : Part) : lineTestStep p = none ↔ p.hold.lineTest = false := by
  unfold lineTestStep
  cases p.hold.lineTest with
  | false => simp
  | true => simp only [if_true]; split <;> simp

/-- No waiting control request is placed while the first of them cannot be (R96). -/
theorem waitingStep_eq_none_iff (p : Part) : waitingStep p = none ↔
    ∀ r rest, p.writer.waiting = r :: rest → accepts p r.kind = false ∨ rowAllows p r.kind = false := by
  unfold waitingStep
  cases p.writer.waiting with
  | nil => simp
  | cons r rest =>
    cases ha : accepts p r.kind <;> cases hb : rowAllows p r.kind <;> simp [ha, hb]
    split <;> simp

/-- No HELD image is offered while the writer is not RUNNING, in a drain, or with no entry in WAIT_SPACE (R64). -/
theorem heldStep_eq_none_iff (p : Part) : heldStep p = none ↔
    p.writer.state ≠ .running ∨ draining p = true ∨ p.hold.queue.find? (fun e => e.state == .waitSpace) = none := by
  unfold heldStep
  by_cases hr : p.writer.state = .running
  · cases hd : draining p with
    | true => simp
    | false =>
      simp only [hr, beq_self_eq_true, Bool.not_false, Bool.and_self, if_true]
      cases p.hold.queue.find? (fun e => e.state == .waitSpace) with
      | none => simp
      | some e =>
        dsimp only
        repeat' split
        all_goals simp
  · simp [hr]

/-- No head of the intake queue is taken again unless an entry has left (R56). -/
theorem headRetryStep_eq_none_iff (p : Part) : headRetryStep p = none ↔ p.hold.headRetry = false := by
  unfold headRetryStep
  cases p.hold.headRetry with
  | false => simp
  | true =>
    simp only [if_true]
    repeat' split
    all_goals simp

/-- No slot is assigned while the writer is not RUNNING, in a drain, with no slot free, or with no line that may be copied
(R60). -/
theorem assignSlot_eq_none_iff (p : Part) : assignSlot p = none ↔
    p.writer.state ≠ .running ∨ draining p = true ∨ allSlots.find? (fun k => (getAt p.slots k).isNone) = none ∨
      p.hold.queue.find? (copyEligible p) = none := by
  unfold assignSlot
  by_cases hr : p.writer.state = .running
  · cases hd : draining p with
    | true => simp
    | false =>
      simp only [hr, beq_self_eq_true, Bool.not_false, Bool.and_self, if_true]
      cases allSlots.find? (fun k => (getAt p.slots k).isNone) with
      | none => simp
      | some k =>
        cases he : p.hold.queue.find? (copyEligible p) with
        | none => simp
        | some e =>
          have hp : e.lines.any HoldLine.isPending = true := by
            have h := List.find?_some he
            rw [copyEligible, Bool.and_eq_true] at h
            exact h.2
          simpa using hp
  · simp [hr]

/-- No abort is served while one is, with none queued, with the writer out of service, or in a drain (R114, R127). -/
theorem abortStep_eq_none_iff (p : Part) : abortStep p = none ↔ p.restore.rollback ≠ none ∨ p.restore.abortQueue = [] ∨
    (p.writer.state ≠ .running ∧ p.writer.state ≠ .suspended) ∨ draining p = true := by
  unfold abortStep
  cases p.restore.rollback with
  | some x => simp
  | none =>
    cases p.restore.abortQueue with
    | nil => simp
    | cons c rest =>
      simp
      tauto

/-- A SUSPENDED writer stays so in a drain and while no UNDO record could be placed (R103, log 23). -/
theorem resumeStep_eq_none_iff (p : Part) : resumeStep p = none ↔
    p.writer.state ≠ .suspended ∨ draining p = true ∨ rowAllows p .undo = false := by
  unfold resumeStep
  by_cases hs : p.writer.state = .suspended <;> cases draining p <;> simp [hs]

/-! ### A marker's answer and the internal events -/

/-- The part with another state of the port and another last marker result of a channel: all that an answer to a marker
changes. -/
def withLast (p : Part) (port : Port) (c : Chan) (l : LastMarker) : Part :=
  { p with port := port, channels := setAt p.channels c { chan p c with last := l } }

section
variable (p : Part) (port : Port) (c : Chan) (l : LastMarker)

/-- Its channels differ in the last marker result at most. -/
theorem chan_withLast (d : Chan) : ∃ l', chan (withLast p port c l) d = { chan p d with last := l' } := by
  by_cases h : c = d
  · subst h; exact ⟨l, getAt_setAt_self ..⟩
  · exact ⟨(chan p d).last, getAt_setAt_ne _ _ h⟩

theorem forwardable_withLast : forwardable (withLast p port c l) = forwardable p := by
  funext e
  obtain ⟨l', h⟩ := chan_withLast p port c l e.channel
  unfold forwardable
  rw [h]
  rfl

theorem commitDurable_withLast (d : Chan) : commitDurable (withLast p port c l) d = commitDurable p d := by
  obtain ⟨l', h⟩ := chan_withLast p port c l d
  unfold commitDurable
  rw [h]
  rfl

theorem commitReady_withLast : commitReady (withLast p port c l) = commitReady p := by
  funext d
  obtain ⟨l', h⟩ := chan_withLast p port c l d
  unfold commitReady commitUnplaced commitDrained
  rw [h]
  rfl

theorem rollbackAlive_withLast : rollbackAlive (withLast p port c l) = rollbackAlive p := by
  have hm : ∀ d, markerPresent (withLast p port c l) d = markerPresent p d := by
    intro d
    obtain ⟨l', h⟩ := chan_withLast p port c l d
    unfold markerPresent
    rw [h]
  unfold rollbackAlive
  simp only [hm]
  rfl

theorem drainSettled_withLast (x : Rollback) : drainSettled (withLast p port c l) x = drainSettled p x := by
  obtain ⟨l', h⟩ := chan_withLast p port c l x.channel
  unfold drainSettled
  rw [h]
  rfl

theorem rollbackStep_withLast : rollbackStep (withLast p port c l) = none ↔ rollbackStep p = none := by
  unfold rollbackStep
  rw [rollbackAlive_withLast]
  simp only [drainSettled_withLast]
  change (match p.restore.rollback with | none => _ | some x => _) = none ↔ _
  cases p.restore.rollback with
  | none => rfl
  | some x =>
    dsimp only
    cases rollbackAlive p with
    | false => simp
    | true =>
      cases x.abortRecord <;> cases x.phase <;> cases x.start <;> simp <;> rfl

/-- A part at rest stays so when a marker is answered: no internal event waits for the port's state or for a last marker
result. -/
theorem atRest_withLast (h : p.AtRest) : (withLast p port c l).AtRest := by
  rw [atRest_iff] at h ⊢
  obtain ⟨hforward, hend, hroll, hline, hask, habort, hresume, hwait, hheld, hretry, hslot⟩ := h
  refine ⟨?_, ?_, (rollbackStep_withLast p port c l).mpr hroll, ?_, ?_, ?_, ?_, ?_, ?_, ?_, ?_⟩
  · rw [forwardStep, Option.map_eq_none_iff] at hforward ⊢
    rw [forwardable_withLast]
    exact hforward
  · rw [commitEndStep, Option.map_eq_none_iff, firstDurable_eq_none] at hend ⊢
    simpa only [commitDurable_withLast] using hend
  · rw [lineTestStep_eq_none_iff] at hline ⊢
    exact hline
  · rw [commitAskStep, Option.map_eq_none_iff] at hask ⊢
    rw [commitReady_withLast]
    exact hask
  · rw [abortStep_eq_none_iff] at habort ⊢
    exact habort
  · rw [resumeStep_eq_none_iff] at hresume ⊢
    exact hresume
  · rw [waitingStep_eq_none_iff] at hwait ⊢
    exact hwait
  · rw [heldStep_eq_none_iff] at hheld ⊢
    exact hheld
  · rw [headRetryStep_eq_none_iff] at hretry ⊢
    exact hretry
  · rw [assignSlot_eq_none_iff] at hslot ⊢
    exact hslot

end

/-- Settles O8: the marker is recognised, and the table's outcome is what the check answers. -/
theorem markerIsTurnedDown : Obligations.MarkerIsTurnedDown := by
  rintro p q w r rest i _ code why hq hw hl hc rfl hr hk hlen haddr hen hcode htable rfl
  refine ⟨?_, fun h => settle_of_atRest (atRest_withLast p _ _ _ h)⟩
  rw [exec_classifyRequest_marker w hq hw hl hc hr hk (isMarker_eq_true hlen haddr hen hcode), markerChecked_eq,
    show turnedDownBy (dequeued p rest) r (chan (dequeued p rest) _) = some (code, why) from htable, markerAction_eq]
  rfl

/-- A marker that meets none of the table's conditions is taken (R27). -/
theorem turnedDownBy_eq_none {p : Part} {r : Request} {ch : Channel} (ha : wordAt r.data 1 = 1 ∨ wordAt r.data 1 = 2)
    (hs : ch.state = .opened) (he : wordAt r.data 2 = 0 ∨ wordAt r.data 2 = ch.epoch) (hh : p.writer.state ≠ .halted)
    (hf : p.writer.state ≠ .frozen) : turnedDownBy p r ch = none := by
  unfold turnedDownBy
  rw [if_neg (by tauto), if_neg (by simp [hs]), if_neg (by tauto), if_neg hh, if_neg hf]

/-- A COMMIT marker taken: the channel is COMMITTING with the marker in progress, its result PENDING (R28, R29). -/
theorem takeCommit_eq (p : Part) (r : Request) (c : Chan) : takeCommit p r c = modChan p c fun ch =>
    { ch with state := .committing,
              marker := some { tag := r.tag, action := .commit, deadline := joinDeadline p, record := none },
              last := { action := .commit, result := .pending, reason := .none } } := by
  rw [takeCommit, recordMarker, modChan_modChan]

/-- An ABORT marker taken: the channel is in the abort queue with the marker in progress, its result PENDING (R35, R113). -/
theorem takeAbort_eq (p : Part) (r : Request) (c : Chan) : takeAbort p r c =
    { modChan p c fun ch =>
      { ch with state := .rollingBack .queued,
                marker := some { tag := r.tag, action := .abort, deadline := none, record := none },
                last := { action := .abort, result := .pending, reason := .none } } with
      restore := { p.restore with abortQueue := p.restore.abortQueue ++ [c] } } := by
  rw [takeAbort, recordMarker, modChan_modChan]
  rfl

/-- Settles O9: the marker is recognised, the table turns nothing down, and the action is carried out. -/
theorem markerIsTaken : Obligations.MarkerIsTaken := by
  rintro p w r rest i _ hq hw hl hc rfl hr hk hlen haddr hen hcode hs he hh hf
  rw [exec_classifyRequest_marker w hq hw hl hc hr hk (isMarker_eq_true hlen haddr hen hcode), markerChecked_eq,
    ← joinDeadline_eq]
  refine ⟨fun ha => ?_, fun ha => ?_⟩
  · rw [turnedDownBy_eq_none (p := dequeued p rest) (ch := chan (dequeued p rest) _) (.inl ha) hs he hh hf, markerAction_eq,
      if_pos ha]
    dsimp only
    rw [if_pos (by decide), takeCommit_eq]
    rfl
  · rw [turnedDownBy_eq_none (p := dequeued p rest) (ch := chan (dequeued p rest) _) (.inr ha) hs he hh hf, markerAction_eq,
      if_neg (by rw [ha]; decide), if_pos ha]
    dsimp only
    rw [if_neg (by decide), takeAbort_eq]
    rfl

/-! ### Lines (R43, R47) -/

/-- A changed line is one in which an enabled byte of a write falls (R43). -/
theorem changesLine_iff (r : Request) (n : Nat) : changesLine r n = true ↔
    r.kind = .write ∧ ∃ j, j < r.len ∧ r.enables[j]? = some true ∧ (r.addr.toNat + j) / 64 = n := by
  have hen : ∀ j, r.enables.getD j false = true ↔ r.enables[j]? = some true := by
    intro j
    rw [List.getD_eq_getElem?_getD]
    cases r.enables[j]? <;> simp
  simp only [changesLine, lineNumber, Bool.and_eq_true, beq_iff_eq, List.any_eq_true, List.mem_range, hen]

/-- The covered lines run from that of the first byte to that of the last (R43). -/
theorem length_coveredLines (r : Request) :
    (coveredLines r).length = (r.addr.toNat + (r.len - 1)) / 64 + 1 - r.addr.toNat / 64 := by
  simp [coveredLines, lastLineNumber, lineNumber]

/-- They stand in ascending order, none of them looked up yet (R43, R51). -/
theorem getElem?_coveredLines {r : Request} {k : Nat} {l : HoldLine} (h : (coveredLines r)[k]? = some l) :
    l = { line := lineAddr (r.addr.toNat / 64 + k), changed := changesLine r (r.addr.toNat / 64 + k), sub := .pending,
          untracked := false } := by
  simp only [coveredLines, List.getElem?_map, Option.map_eq_some_iff] at h
  obtain ⟨j, hj, rfl⟩ := h
  obtain ⟨hlt, rfl⟩ := List.getElem?_eq_some_iff.mp hj
  simp [lineNumber]

/-- Two requests share a line when a line lies in both runs (R43). -/
theorem requestsShare_iff (a b : Request) : requestsShare a b = true ↔
    ∃ n, a.addr.toNat / 64 ≤ n ∧ n ≤ (a.addr.toNat + (a.len - 1)) / 64 ∧
      b.addr.toNat / 64 ≤ n ∧ n ≤ (b.addr.toNat + (b.len - 1)) / 64 := by
  simp only [requestsShare, sharesLine, Bool.and_eq_true, decide_eq_true_eq]
  simp only [lastLineNumber, lineNumber]
  constructor
  · intro h
    exact ⟨max (a.addr.toNat / 64) (b.addr.toNat / 64), by omega⟩
  · rintro ⟨n, h⟩
    omega

/-- What the tracker holds for a line is the number of the first entry of the line and the channel (R47). -/
theorem trackerLookup_eq (tr : List TrackerEntry) (line : Addr) (c : Chan) :
    trackerLookup tr line c = (tr.find? fun x => x.line == line && x.channel == c).bind (·.seq) := by
  unfold trackerLookup
  cases tr.find? fun x => x.line == line && x.channel == c <;> rfl

/-! ### The first touch of an OPEN channel (R39, R44, R45, R53) -/

/-- A line looked up is still PENDING when it is changed and the tracker holds no number for it (R47). -/
theorem lookedUp_pending_iff (p : Part) (c : Chan) (l : HoldLine) :
    ((lookedUp p c l).changed = true ∧ (lookedUp p c l).sub = .pending) ↔
      l.changed = true ∧ trackerLookup p.tracker l.line c = none := by
  rw [lookedUp_eq]
  cases hc : l.changed with
  | false => simp [hc]
  | true =>
    cases trackerLookup p.tracker l.line c with
    | none => simp
    | some n => simp only [if_true, Option.elim_some]; split <;> simp

/-- A line looked up is DURABLE when its record is behind the frontier (R47). -/
theorem lookedUp_durable {p : Part} {c : Chan} {l : HoldLine}
    (h : l.changed = true → ∃ n, trackerLookup p.tracker l.line c = some n ∧ n ≤ p.writer.frontier)
    (hc : (lookedUp p c l).changed = true) : (lookedUp p c l).sub = .durable := by
  rw [lookedUp_eq] at hc ⊢
  cases hl : l.changed with
  | false => simp [hl] at hc
  | true =>
    obtain ⟨n, hn, hle⟩ := h hl
    simp [hn, hle]

section
variable {p : Part} {r : Request} {rest : List IntakeEntry} {k : Classification} (w : List Instr)
  (hq : p.port.intake = { req := r, cls := none } :: rest) (hd : destination p r = .hold k) (hk : r.kind = .write)
  (hw : p.writer.state ≠ .halted) (hf : p.power.frozen = false) (hs : (chan p k.channel).state = .opened)
  (hc : k.counted = true) (hl : sharesHeld p.hold.queue r = false)
include hq hd hk hw hf hs hc hl

/-- A write just classified, of an OPEN channel, that shares no line and touches one not durable: it is counted with its
hits and joins with its lines looked up (R39, R44, R53). -/
theorem classified_touching
    (htouch : ∃ l ∈ (coveredLines r).map (lookedUp p k.channel), l.changed = true ∧ l.sub ≠ .durable)
    (hroom : p.hold.queue.length < 8) :
    exec .classifyRequest ⟨p, w⟩ = .next ⟨settle (joined
      (modChan (dequeued p rest) k.channel fun ch => { ch with
        journaledWrites := countUp ch.journaledWrites,
        trackerHits := countBy ((coveredLines r).countP fun l =>
          l.changed && (trackerLookup p.tracker l.line k.channel).isSome) ch.trackerHits })
      (newEntry p r k (some (chan p k.channel).epoch) (lookedUpState ((coveredLines r).map (lookedUp p k.channel)))
        ((coveredLines r).map (lookedUp p k.channel)))), w⟩ := by
  have htake := holdTake_classified_opened (p := dequeued p rest) hk hw hf hs hc
  rw [takeOpenWrite_touching (p := countJournaled (dequeued p rest) k.channel) hl htouch, countHits, countJournaled,
    modChan_modChan, chan_modChan_self, joinHold_room (p := modChan (dequeued p rest) k.channel _) hroom] at htake
  rw [exec_classifyRequest_taken w hq hd htake]
  rfl

/-- One whose every changed line is DURABLE goes down as a direct write (R45). -/
theorem classified_direct
    (hdur : ∀ l ∈ (coveredLines r).map (lookedUp p k.channel), l.changed = true → l.sub = .durable) :
    exec .classifyRequest ⟨p, w⟩ = .next ⟨settle (handOver
      (modChan (dequeued p rest) k.channel fun ch => { ch with
        journaledWrites := countUp ch.journaledWrites,
        trackerHits := countBy ((coveredLines r).countP fun l =>
          l.changed && (trackerLookup p.tracker l.line k.channel).isSome) ch.trackerHits,
        outstanding := ch.outstanding + 1 })
      [passThrough r (.direct r.tag k.channel)]), w⟩ := by
  have htake := holdTake_classified_opened (p := dequeued p rest) hk hw hf hs hc
  rw [takeOpenWrite_direct (p := countJournaled (dequeued p rest) k.channel) hl hdur, countOutstanding, modChan_handOver,
    countHits, countJournaled, modChan_modChan, modChan_modChan] at htake
  rw [exec_classifyRequest_taken w hq hd htake]
  rfl

end

/-- A write of an OPEN channel in READY goes to the hold unit, counted (R10, R39). -/
theorem destination_of_opened_write {p : Part} {r : Request} {i : Fin 16}
    (hw : inWindow p.classifier.geometry r.addr.toNat = false)
    (hl : lookupRegion p.classifier.regions (pageOf r.addr) = some i)
    (hc : (getAt p.classifier.regions i).cls = .strict ∨ (getAt p.classifier.regions i).cls = .lenient)
    (hr : p.restore.recovery = .ready) (hk : r.kind = .write)
    (hs : (chan p (getAt p.classifier.regions i).channel).state = .opened) :
    destination p r = .hold
      { cls := (getAt p.classifier.regions i).cls, channel := (getAt p.classifier.regions i).channel, region := i,
        counted := true } := by
  rw [destination_eq_hold hw hl hc hr (.inr (by simp [hs])), hk, hs]
  rfl

/-- Settles O10: the write takes the path of a first touch; lines, sharing and hits by their own characterisations. -/
theorem openWriteJoinsHold : Obligations.OpenWriteJoinsHold := by
  refine ⟨?_, ?_, fun q r => by simp [sharesHeld], requestsShare_iff, trackerLookup_eq⟩
  · rintro p w r rest i _ ls hq hwin hl hc rfl hr hk hs hw hf hshare hroom ⟨l, hmem, hchanged, hnew⟩ hls
    have hls' : ls = (coveredLines r).map (lookedUp p (getAt p.classifier.regions i).channel) :=
      hls.trans <| List.map_congr_left fun l _ => by
        rw [lookedUp_eq]
        cases trackerLookup p.tracker l.line (getAt p.classifier.regions i).channel <;> rfl
    have hstate : (if ∃ l ∈ coveredLines r, l.changed = true ∧
          trackerLookup p.tracker l.line (getAt p.classifier.regions i).channel = none then .waitCopy else .recording) =
        lookedUpState ((coveredLines r).map (lookedUp p (getAt p.classifier.regions i).channel)) := by
      rw [lookedUpState_eq]
      exact if_congr (by simp only [List.mem_map, exists_exists_and_eq_and, lookedUp_pending_iff]) rfl rfl
    rw [classified_touching w hq (destination_of_opened_write hwin hl hc hr hk hs) hk hw hf hs rfl hshare
      ⟨_, List.mem_map_of_mem hmem, lookedUp_not_durable hchanged hnew⟩ hroom, hstate, ← joinDeadline_eq, hls']
    rfl
  · rintro r _ _ rfl rfl
    refine ⟨length_coveredLines r, fun k l h => ?_⟩
    rw [getElem?_coveredLines h]
    exact ⟨rfl, rfl, rfl, changesLine_iff r _⟩

/-- Settles O13: with every changed line DURABLE the write is direct, and each of those lines is a hit. -/
theorem directWriteGoesDown : Obligations.DirectWriteGoesDown := by
  rintro p w r rest i _ hq hwin hl hc rfl hr hk hs hw hf hshare hdur
  have hhits : ((coveredLines r).countP fun l => l.changed &&
      (trackerLookup p.tracker l.line (getAt p.classifier.regions i).channel).isSome) =
      (coveredLines r).countP fun l => l.changed := by
    refine List.countP_congr fun l hmem => ?_
    rw [Bool.and_eq_true, and_iff_left_iff_imp]
    intro hchanged
    obtain ⟨n, hn, -⟩ := hdur l hmem hchanged
    simp [hn]
  have hlooked : ∀ l ∈ (coveredLines r).map (lookedUp p (getAt p.classifier.regions i).channel),
      l.changed = true → l.sub = .durable := by
    intro l hl
    obtain ⟨l0, hmem, rfl⟩ := List.mem_map.mp hl
    exact lookedUp_durable (hdur l0 hmem)
  rw [classified_direct w hq (destination_of_opened_write hwin hl hc hr hk hs) hk hw hf hs rfl hshare hlooked, ← hk]
  dsimp only
  rw [hhits]
  rfl

end Sys2Proof.Proofs

/-! Memory's answers to pass-through requests and to the ACTIVE header, the service commands, and a channel's registers
(R14, R20 to R23, R45, R91, R107, R108, R138 to R140, R157, R158). -/

namespace Sys2Proof.Proofs

open Sys2Proof.Machine Sys2Proof.Laws

/-! ### Answers to pass-through requests (R157, R158) -/

section
variable {p : Part} {t : DTag} {r : DownReq} (w : List Instr) (hi : getAt p.arbiter.issued t = some r)
  (hr : r.purpose.requester = .pt)
include hi hr

/-- PT_ANSWER_DONE of a pass-through request (R157). -/
theorem exec_ptAnswerDone (data : List Byte) : exec (.ptAnswerDone t data) ⟨p, w⟩ =
    .next ⟨ptAnswered (freeTag p t) r .done (if r.kind = .read then data else []), w⟩ := by
  have hi' : issuedAt p t = some r := hi
  have hdata : responseData r data = if r.kind = .read then data else [] := by
    unfold responseData
    cases r.kind <;> rfl
  show Host.Outcome.next (State.mk (ptDone p t data) w) = _
  rw [← hdata, ptDone, hi']
  dsimp only
  rw [if_pos (by simp [hr])]

/-- PT_ANSWER_FAILED of a pass-through request (R158). -/
theorem exec_ptAnswerFailed : exec (.ptAnswerFailed t) ⟨p, w⟩ =
    .next ⟨ptAnswered (raiseEvent (freeTag p t) .dataFault) r .failed [], w⟩ := by
  have hi' : issuedAt p t = some r := hi
  show Host.Outcome.next (State.mk (ptFailed p t) w) = _
  rw [ptFailed, hi']
  dsimp only
  rw [if_pos (by simp [hr])]

end

/-- The answer to a plain request is its response (R157, R158). -/
theorem ptAnswered_plain {r : DownReq} {tag : Tag} (h : r.purpose = .plain tag) (p : Part) (code : RespCode)
    (data : List Byte) : ptAnswered p r code data = respond p tag code data := by
  simp only [ptAnswered, h]

/-- The answer to a direct write is its response, and the write leaves the outstanding count (R23, R45). -/
theorem ptAnswered_direct {r : DownReq} {tag : Tag} {c : Chan} (h : r.purpose = .direct tag c) (p : Part)
    (code : RespCode) (data : List Byte) :
    ptAnswered p r code data = settle (uncountOutstanding (respond p tag code data) c) := by
  simp only [ptAnswered, h]

/-- Settles O15: a plain and a direct request are pass-through requests, each with its own answer. -/
theorem passThroughAnswerGoesUpstream : Obligations.PassThroughAnswerGoesUpstream := by
  refine ⟨fun p w t r tag data hi hp => ⟨?_, ?_⟩, fun p w t r tag c data hi hp hk => ⟨?_, ?_⟩⟩
  · rw [exec_ptAnswerDone w hi (by rw [hp]; rfl), ptAnswered_plain hp]; rfl
  · rw [exec_ptAnswerFailed w hi (by rw [hp]; rfl), ptAnswered_plain hp]; rfl
  · rw [exec_ptAnswerDone w hi (by rw [hp]; rfl), ptAnswered_direct hp, if_neg (by simp [hk])]; rfl
  · rw [exec_ptAnswerFailed w hi (by rw [hp]; rfl), ptAnswered_direct hp]; rfl

/-! ### The ACTIVE header (R138, R139, R140) -/

/-- With recovery neither drained nor frozen an answer takes its course (R142, R143). -/
theorem unlessStopped_eq {p : Part} (hd : p.command.busy ≠ .softReset) (hf : p.power.frozen = false) (go : Part) :
    unlessStopped p go = go := by
  have hd' : draining p = false := by simpa [draining] using hd
  simp [unlessStopped, hd', hf]

/-- REBASE_HEADER_WRITE_ANSWERED of the ACTIVE header write in flight (R139). -/
theorem exec_rebaseHeaderWriteAnswered {p : Part} {t : DTag} {r : DownReq} {k s : Nat} (w : List Instr) (a : WriteAnswer)
    (hi : getAt p.arbiter.issued t = some r) (hp : r.purpose = .recovery k) (hs : p.restore.stage = .activeHeader s) :
    exec (.rebaseHeaderWriteAnswered t a) ⟨p, w⟩ = .next ⟨activeAnswered (freeTag p t) s a, w⟩ := by
  have hk : recoveryPieceOf p t = some k := by
    have hi' : issuedAt p t = some r := hi
    simp only [recoveryPieceOf, hi', hp]
  show Host.Outcome.next (State.mk (activeRow p t a) w) = _
  simp only [activeRow, recoveryWriteRow, hk, hs]

/-- A channel that READY gives its R_c, by its enable and R_c (R21, R37). -/
theorem assignChannel_eq (ch : Channel) (x : Epoch) : assignChannel ch x =
    if x = 0xFFFFFFFF then { ch with resolved := x, epoch := x, exhausted := true }
    else if ch.enabled then
      { ch with state := .opened, epoch := x + 1, resolved := x, outstanding := 0, records := 0, torn := false,
                overflow := false, tornRecord := none, journaledWrites := 0, trackerHits := 0,
                untrackedSaves := 0, holdExpiries := 0 }
    else { ch with epoch := x + 1, resolved := x } := by
  unfold assignChannel
  exact if_congr (by simp [Config.lastEpoch]) rfl rfl

/-- Only the lowest usable segment's entry differs from the table as built (R91). -/
theorem getElem?_servedTable {g : Geometry} (f : Seq) (i : Nat) (h : lowestUsable g < g.count.toNat) :
    (servedTable g f)[i]? = if i = lowestUsable g
      then some { state := .active, first := f, used := 2, lastLen := 0, mask := 0 } else (builtTable g)[i]? := by
  have hlen : (builtTable g).length = g.count.toNat := by simp [builtTable]
  rw [servedTable, List.getElem?_set]
  split_ifs with h1 h2 h2
  · rfl
  · exact absurd h1.symm h2
  · omega
  · omega
  · omega
  · rfl

/-- Settles O34: the answer takes its course, and the channels are assigned one by one. -/
theorem readyIsReached : Obligations.ReadyIsReached := by
  refine ⟨fun p w t r k s f kind chs hi hp hs hf hbusy hchs => ?_, fun g f i h => getElem?_servedTable f i h⟩
  have hd : p.command.busy ≠ .softReset := by rcases hbusy with ⟨h, -⟩ | ⟨h, -⟩ <;> simp [h]
  have hname : busyName p = kind := by rcases hbusy with ⟨h, -, rfl⟩ | ⟨h, -, rfl⟩ <;> simp [busyName, h]
  have hfirst : activeFirst p = f := by rcases hbusy with ⟨h, rfl, -⟩ | ⟨h, rfl, -⟩ <;> simp [activeFirst, h]
  have hall : p.channels.mapFinIdx (fun i ch h =>
      assignChannel ch (getAt p.restore.report.channels ⟨i, h⟩).resolved) = chs := by
    refine ext_getAt fun c => ?_
    rw [hchs c _ _ rfl rfl, ← assignChannel_eq]
    simp [getAt, chan]
  refine ⟨?_, ?_⟩
  · rw [exec_rebaseHeaderWriteAnswered w .done hi hp hs]
    show Host.Outcome.next (State.mk (unlessStopped (freeTag p t) _) w) = _
    rw [unlessStopped_eq (p := freeTag p t) hd hf, reachReady]
    dsimp only
    rw [assignChannels_eq, ← hall, ← hname, ← hfirst]
    rfl
  · rw [exec_rebaseHeaderWriteAnswered w .failed hi hp hs]
    show Host.Outcome.next (State.mk (unlessStopped (freeTag p t) _) w) = _
    rw [unlessStopped_eq (p := freeTag p t) hd hf, ← hname]
    rfl

/-! ### START and STOP (R107, R108) -/

/-- A channel at START opens when it is enabled, IDLE and not EXHAUSTED (R21). -/
theorem startChannel_eq (ch : Channel) : startChannel ch =
    if ch.enabled ∧ ch.state = .idle ∧ ch.exhausted = false then
      { ch with state := .opened, outstanding := 0, records := 0, torn := false, overflow := false,
                tornRecord := none, journaledWrites := 0, trackerHits := 0, untrackedSaves := 0, holdExpiries := 0 }
    else ch := by
  unfold startChannel
  exact if_congr (by simp [and_assoc]) rfl rfl

/-- STOP with every channel quiet and no entry held ends service (R108). -/
theorem judgeStop_quiet {p : Part} (hw : p.writer.state = .running ∨ p.writer.state = .suspended)
    (hc : ∀ c, (chan p c).quiet = true) (hq : p.hold.queue = []) :
    judgeStop p = commandDone { p with writer := { p.writer with state := .stopped },
                                       channels := p.channels.map fun ch => { ch with state := .idle } } .stop := by
  have hall : p.channels.all Channel.quiet = true := (all_quiet_iff p).mpr hc
  rcases hw with hw | hw <;> simp [judgeStop, hw, hall, hq]

/-- Settles O41: each command's judgement with its conditions met. -/
theorem startAndStopMoveService : Obligations.StartAndStopMoveService := by
  refine ⟨fun p w hl hb hw hr hg => ?_, fun p w hl hb hw hc hq => ?_, fun _ => rfl⟩
  · have hchs : (fun ch : Channel => startChannel ch) = _ := funext startChannel_eq
    rw [exec_start w hl ((unlessBusy_free hb _ _).trans
      ((judgeStart_checks hw hr).trans (withGeometry_eq hg _ _))) rfl, ← hchs]
    rfl
  · exact exec_stop w hl ((unlessBusy_free hb _ _).trans
      (judgeStop_quiet hw (fun c => (quiet_iff _).mpr (hc c)) hq)) rfl

/-! ### A channel's marker code and enable (R14, R20) -/

/-- MARKER_CODE_WRITE at its own index (R20). -/
theorem exec_markerCodeWrite {p : Part} {c : Chan} (v : Word) (w : List Instr)
    (h : p.link.writesAt (markerCodeIndex c) = true) :
    exec (.markerCodeWrite c v) ⟨p, w⟩ = .next ⟨{ writeMarkerCode p c v with link := p.link.afterGroup }, w⟩ :=
  changed_groupTaken (act := fun q => writeMarkerCode q c v) v w h (by unfold writeMarkerCode; split <;> rfl)

/-- Settles O48: the code is judged by the channel's state, the enable as a configuration write. -/
theorem markerCodeWriteIsJudged : Obligations.MarkerCodeWriteIsJudged := by
  refine fun p w c v => ⟨fun hi => ⟨fun hs => ?_, fun hs => ?_⟩, fun hi => ⟨fun ho => ?_, fun hc => ?_⟩⟩
  · rw [exec_markerCodeWrite v w hi, writeMarkerCode, if_pos (by simp [hs])]; rfl
  · rw [exec_markerCodeWrite v w hi, writeMarkerCode, if_neg (by simp [hs])]; rfl
  · rw [exec_configGroupWrite v w hi]; simp only [writeConfigGroup, (configOpen_iff p).mpr ho, if_true]; rfl
  · rw [exec_configGroupWrite v w hi, writeConfigGroup_closed v (.inl (configOpen_eq_false hc))]; rfl

end Sys2Proof.Proofs

/-! What a rise of the frontier brings about: the held writes that may go down, in queue order (R23, R67), and the answer that
raises it (R24, R59, R99, R100). -/

namespace Sys2Proof.Proofs

open Sys2Proof.Machine Sys2Proof.Laws

/-! ### Held writes that go down (R23, R67) -/

/-- The entries older than that of a tag are the queue up to the first entry of the tag. -/
theorem olderThan_spec (q : List HoldEntry) (t : Tag) : ∃ rest, q = olderThan q t ++ rest ∧
    (∀ o ∈ olderThan q t, o.req.tag ≠ t) ∧ ∀ x, rest.head? = some x → x.req.tag = t := by
  refine ⟨q.dropWhile fun e => e.req.tag != t, List.takeWhile_append_dropWhile.symm, fun o ho => ?_, fun x hx => ?_⟩
  · simpa using List.mem_takeWhile_imp ho
  · have h := List.head?_dropWhile_not (fun e : HoldEntry => e.req.tag != t) q
    rw [hx] at h
    simpa using h

/-- Every older entry that shares a line with the entry is in FORWARDING (R54, R67). -/
theorem olderCleared_iff (q : List HoldEntry) (e : HoldEntry) : olderCleared q e = true ↔
    ∀ o ∈ olderThan q e.req.tag, requestsShare o.req e.req = true → o.state = .forwarding := by
  simp [olderCleared, imp_iff_not_or]

/-- A write entry is forwardable by R67's conditions. -/
theorem forwardable_iff (p : Part) (e : HoldEntry) : forwardable p e = true ↔
    e.req.kind = .write ∧ e.state = .recording ∧ e.failed = false ∧
      (∀ o ∈ olderThan p.hold.queue e.req.tag, requestsShare o.req e.req = true → o.state = .forwarding) ∧
      ((∀ l ∈ e.lines, l.changed = true → l.sub = .durable) ∨ (e.torn = true ∧ (chan p e.channel).torn = true)) := by
  simp only [forwardable, HoldEntry.isWrite, Bool.and_eq_true, Bool.or_eq_true, beq_iff_eq, Bool.not_eq_true',
    olderCleared_iff, allDurable_iff, and_assoc]

/-- A write entry handed on, as a record (R54, R67). -/
theorem forward_write {e : HoldEntry} (h : e.req.kind = .write) (p : Part) : forward p e = { p with
    hold := { p.hold with
      queue := p.hold.queue.map (fun x => if x.req.tag = e.req.tag then { x with state := .forwarding } else x),
      lineTest := true },
    arbiter := { p.arbiter with waiting := p.arbiter.waiting ++
      [{ purpose := .held e.req.tag, kind := .write, addr := e.req.addr, len := e.req.len, enables := e.req.enables,
         data := e.req.data }] },
    channels := setAt p.channels e.channel
      { chan p e.channel with outstanding := (chan p e.channel).outstanding + 1 } } := by
  have hw : e.isWrite = true := by simp [HoldEntry.isWrite, h]
  simp only [forward, hw, if_true, modHold, beq_iff_eq, ← h]
  rfl

/-- The first forwardable entry in queue order comes before every other internal event (log 12). -/
theorem internal_of_forwardable {p : Part} {e : HoldEntry} (h : p.hold.queue.find? (forwardable p) = some e) :
    internal p = some (forward p e) := by
  simp [internal, forwardStep, h]

/-- Settles O22: R67's conditions, and the first internal event with the entry they find. -/
theorem heldWriteIsForwarded : Obligations.HeldWriteIsForwarded := by
  refine ⟨olderThan_spec, fun p e => ⟨forwardable_iff p e, fun h => ?_⟩⟩
  obtain ⟨hwrite, -⟩ := (forwardable_iff p e).mp (List.find?_some h)
  rw [internal_of_forwardable h, forward_write hwrite]

/-! ### A record or header write answered DONE (R99, R100) -/

/-- RECORD_WRITE_DONE of a record or header write (R100). -/
theorem exec_recordWriteDone {p : Part} {t : DTag} {r : DownReq} (w : List Instr) (hi : getAt p.arbiter.issued t = some r)
    (hr : r.purpose.requester = .rw) :
    exec (.recordWriteDone t) ⟨p, w⟩ = .next ⟨settle (journalWriteDone (freeTag p t) r.purpose), w⟩ := by
  have hi' : issuedAt p t = some r := hi
  have hw : recordWriteOf p t = some r.purpose := by simp only [recordWriteOf, hi', hr]; rfl
  show Host.Outcome.next (State.mk (match recordWriteOf p t with
    | none => p
    | some x => settle (journalWriteDone (freeTag p t) x)) w) = _
  rw [hw]

/-- What has been answered without a gap, and what stays (R100). -/
theorem popDone_spec {f f' : Seq} {js rest : List JournalWrite} (h : popDone f js = (f', rest)) :
    ∃ run, js = run ++ rest ∧ (∀ j ∈ run, j.isDone = true) ∧ (∀ j, rest.head? = some j → j.isDone = false) ∧
      f' = ((run.filter fun j => !j.isHeader).getLast?.map (·.seq)).getD f := by
  rw [popDone_eq, Prod.mk.injEq] at h
  obtain ⟨rfl, rfl⟩ := h
  refine ⟨js.takeWhile JournalWrite.isDone, List.takeWhile_append_dropWhile.symm, fun j hj => List.mem_takeWhile_imp hj,
    fun j hj => ?_, ?_⟩
  · have hnot := List.head?_dropWhile_not JournalWrite.isDone js
    rw [hj] at hnot
    simpa using hnot
  · cases ((js.takeWhile JournalWrite.isDone).filter fun j => !j.isHeader).getLast? <;> rfl

/-- A write is answered DONE when it is presented, every piece is answered and none FAILED (R100). -/
theorem isDone_iff (j : JournalWrite) :
    j.isDone = true ↔ j.presented = true ∧ j.unanswered = 0 ∧ j.failed = false := by
  simp [JournalWrite.isDone, and_assoc]

/-- A channel whose TORN record the frontier has passed has its torn flag set (R24, R59). -/
def tornPassed (f : Seq) (ch : Channel) : Channel :=
  if ch.tornRecord.any fun n => decide (n ≤ f) then { ch with torn := true } else ch

/-- A frontier noted: the lines and the TORN records it has passed (R24, R59, R67). -/
theorem noteFrontier_eq (p : Part) : noteFrontier p = { p with
    hold := { p.hold with queue := p.hold.queue.map fun e =>
      { e with lines := e.lines.map (HoldLine.passed p.writer.frontier) } },
    channels := p.channels.map (tornPassed p.writer.frontier) } := by
  unfold noteFrontier
  refine congrArg (fun g => ({ p with
    hold := { p.hold with queue := p.hold.queue.map fun e =>
      { e with lines := e.lines.map (HoldLine.passed p.writer.frontier) } },
    channels := p.channels.map g } : Part)) (funext fun ch => ?_)
  unfold tornPassed
  cases ch.tornRecord <;> simp

/-- Settles O24: the answer of a record and that of a header; the run, what is presented and what the frontier reports by
their own characterisations. -/
theorem recordWriteDoneMovesFrontier : Obligations.RecordWriteDoneMovesFrontier := by
  refine ⟨fun p w t r hi => ⟨?_, ?_⟩, fun _ _ _ _ h => popDone_spec h, ?_, ?_, isDone_iff⟩
  · rintro n _ hp rfl
    rw [exec_recordWriteDone w hi (by rw [hp]; rfl), hp]
    rfl
  · rintro i _ hp rfl
    rw [exec_recordWriteDone w hi (by rw [hp]; rfl), hp]
    rfl
  · rintro p i _ rfl
    rfl
  · rintro p _ rfl
    rw [noteFrontier_eq]
    refine congrArg (fun g => ({ p with
      hold := { p.hold with queue := p.hold.queue.map fun e => { e with lines := e.lines.map g } },
      channels := p.channels.map (tornPassed p.writer.frontier) } : Part)) (funext fun l => ?_)
    unfold HoldLine.passed
    cases l.sub <;> simp

end Sys2Proof.Proofs

/-! A commit given up on its deadline, and the release of the WAIT_EPOCH entries of its channel (R33, R36, R37, R55, R57). -/

namespace Sys2Proof.Proofs

open Sys2Proof.Machine Sys2Proof.Laws

/-! ### Entries changed and entries that expire as they enter a waiting state (R57) -/

/-- An entry of the hold queue is changed. -/
theorem modHold_eq (p : Part) (t : Tag) (f : HoldEntry → HoldEntry) : modHold p t f = { p with
    hold := { p.hold with queue := p.hold.queue.map fun e => if e.req.tag = t then f e else e } } := by
  simp only [modHold, beq_iff_eq]

/-- Two changes of one entry are one. -/
theorem modHold_modHold (p : Part) (t : Tag) {f : HoldEntry → HoldEntry} (g : HoldEntry → HoldEntry)
    (hf : ∀ e, (f e).req = e.req) : modHold (modHold p t f) t g = modHold p t fun e => g (f e) := by
  simp only [modHold_eq, List.map_map]
  congr 2
  refine List.map_congr_left fun e _ => ?_
  by_cases h : e.req.tag = t <;> simp [h, hf]

theorem isWrite_iff (e : HoldEntry) : e.isWrite = true ↔ e.req.kind = .write := by
  simp [HoldEntry.isWrite]

section
variable {p : Part} {t : Tag} {e : HoldEntry} (he : holdEntry p t = some e)
include he

/-- An entry that does not wait does not expire (R57). -/
theorem expireLate_moving (hs : e.state.isWaiting = false) : expireLate p t = p := by
  simp only [expireLate, he]
  cases e.deadline <;> simp [hs]

/-- Nor does one that enters a waiting state before its deadline (R57). -/
theorem expireLate_early (hd : ∀ d, e.deadline = some d → p.now ≤ d) : expireLate p t = p := by
  simp only [expireLate, he]
  cases h : e.deadline with
  | none => rfl
  | some d => simp [Nat.not_lt.mpr (hd d h)]

/-- One that enters it past its deadline expires (R57). -/
theorem expireLate_late {d : Time} (hs : e.state.isWaiting = true) (hd : e.deadline = some d) (hlt : d < p.now) :
    expireLate p t = expire p e := by
  simp only [expireLate, he, hd]
  exact if_pos (by simp [hs, hlt])

end

/-! ### The release of WAIT_EPOCH entries (R55) -/

/-- The part with a released write counted into its channel's epoch (R39, R55). -/
def released (p : Part) (e : HoldEntry) : Part := if e.isWrite then countJournaled p e.channel else p

theorem released_eq (p : Part) (e : HoldEntry) : released p e = { p with
    channels := if e.req.kind = .write then
        setAt p.channels e.channel { chan p e.channel with journaledWrites := countUp (chan p e.channel).journaledWrites }
      else p.channels } := by
  unfold released
  by_cases h : e.req.kind = .write
  · rw [if_pos ((isWrite_iff e).mpr h), if_pos h]
    rfl
  · rw [if_neg (mt (isWrite_iff e).mp h), if_neg h]

@[simp] theorem released_hold (p : Part) (e : HoldEntry) : (released p e).hold = p.hold := by rw [released_eq]

@[simp] theorem released_now (p : Part) (e : HoldEntry) : (released p e).now = p.now := by rw [released_eq]

/-- The epoch that a released entry takes: its channel's, and none where the channel is IDLE (R55, log 41). -/
def releaseInto (ch : Channel) : Option Epoch := if ch.state = .idle then none else some ch.epoch

section
variable {p : Part} {t : Tag} {e : HoldEntry} (he : holdEntry p t = some e)
include he

/-- A write of a channel left IDLE is refused (R37, R55). -/
theorem releaseOne_idle (hw : e.req.kind = .write) (hs : (chan p e.channel).state = .idle) :
    releaseOne p t = dismiss p e .refused := by
  have hc : (e.isWrite && (chan p e.channel).state == .idle) = true := by simp [isWrite_iff, hw, hs]
  simp only [releaseOne, he, hc, if_true]

/-- Any other takes its channel's epoch, and waits for an older entry that shares a line with it or proceeds (R54, R55). -/
theorem releaseOne_released (h : e.req.kind = .read ∨ (chan p e.channel).state ≠ .idle) : releaseOne p t =
    if (olderThan p.hold.queue t).any (fun o => requestsShare o.req e.req) then
      expireLate (modHold (released p e) t fun y =>
        { y with epoch := releaseInto (chan p e.channel), state := .waitLine }) t
    else proceed (modHold (released p e) t fun y => { y with epoch := releaseInto (chan p e.channel) })
      { e with epoch := releaseInto (chan p e.channel) } := by
  have hc : (e.isWrite && (chan p e.channel).state == .idle) = false := by
    rcases h with h | h <;> simp [HoldEntry.isWrite, h]
  have hq : (if e.isWrite then countJournaled p e.channel else p) = released p e := rfl
  simp only [releaseOne, he, hc, Bool.false_eq_true, if_false, hq, released_hold, releaseInto, beq_iff_eq]

end

/-! ### A commit given up (R33) -/

/-- COMMIT_DEADLINE_EXPIRY of a commit whose record is not placed: it is given up at its deadline (R33). -/
theorem exec_commitDeadlineExpiry {p : Part} {c : Chan} {tag : Tag} {d : Time} (w : List Instr)
    (hm : (chan p c).marker = some { tag := tag, action := .commit, deadline := some d, record := none }) :
    exec (.commitDeadlineExpiry c) ⟨p, w⟩ = .next ⟨settle (giveUp (reachTime p d) c), w⟩ := by
  have hd : commitDeadline p c = some d := by simp [commitDeadline, hm]
  show Host.Outcome.next (State.mk (commitExpiryRow p c) w) = _
  rw [commitExpiryRow, hd]

/-- A commit given up: REFUSED with reason DEADLINE, the channel OPEN again, its request withdrawn, and the release
(R33, log 47). -/
theorem giveUp_eq {p : Part} {c : Chan} {m : Marker} (hm : (chan p c).marker = some m) :
    giveUp p c = releaseEpoch { p with
      port := { p.port with tags := setAt p.port.tags m.tag false,
                            responses := p.port.responses ++ [{ tag := m.tag, code := .refused, data := [] }] },
      channels := setAt p.channels c { chan p c with
        state := .opened, marker := none,
        last := { (chan p c).last with result := .refused, reason := .deadline },
        holdExpiries := countUp (chan p c).holdExpiries },
      writer := { p.writer with waiting := p.writer.waiting.filter fun r => !(r.kind == .commit && r.channel == c) },
      events := { p.events with flags := p.events.flags ||| eventMask .holdExpired } } c := by
  have ha : answerMarker p c .refused .deadline = respond (settleMarker p c .refused .deadline) m.tag .refused [] := by
    simp only [answerMarker, hm]
  simp only [giveUp, ha, modChan, chan, raiseEvent_channels, respond_channels, settleMarker_channels, getAt_setAt_self,
    setAt_setAt]
  rfl

/-- Settles O38: the row gives the commit up; a release is the refusal, the wait or the way on of each entry. -/
theorem commitIsGivenUp : Obligations.CommitIsGivenUp := by
  refine ⟨fun p w c tag d hm => ?_, fun _ _ => rfl, fun p t he => by simp only [releaseOne, he], ?_⟩
  · rw [exec_commitDeadlineExpiry w hm, giveUp_eq (p := reachTime p d) hm]
    rfl
  · rintro p q u t e x _ he rfl
    refine ⟨fun hw hs => ?_, ?_⟩
    · have ht := tag_of_holdEntry he
      rw [releaseOne_idle he hw hs, dismiss_eq, ht]
    · rintro h rfl hq
      have hq' : q = modHold (released p e) t fun y => { y with epoch := releaseInto (chan p e.channel) } := by
        rw [hq, modHold_eq, released_eq]
        rfl
      have hheld : holdEntry (released p e) t = some e := by rw [holdEntry, released_hold]; exact he
      rw [releaseOne_released he h]
      refine ⟨fun hnone => ?_, fun hsome hu => ?_⟩
      · rw [if_neg (by simpa using hnone), ← hq']
        rfl
      · have hu' : u = modHold (released p e) t fun y =>
            { y with epoch := releaseInto (chan p e.channel), state := .waitLine } := by
          rw [hu, ← modHold_modHold (released p e) t (f := fun y => { y with epoch := releaseInto (chan p e.channel) })
            (fun y => { y with state := .waitLine }) fun _ => rfl, ← hq', modHold_eq]
        have hentry : holdEntry u t =
            some { e with epoch := releaseInto (chan p e.channel), state := .waitLine } := by
          rw [hu']
          refine (holdEntry_modHold (released p e) t ?_).trans ?_
          · exact fun _ => rfl
          · rw [hheld]
            rfl
        have hnow : u.now = p.now := by rw [hu']; exact released_now p e
        rw [if_pos (by simpa using hsome), ← hu']
        exact ⟨fun hd => expireLate_early hentry (by rwa [hnow]),
          fun d hd hlt => expireLate_late hentry rfl hd (by rwa [hnow])⟩

end Sys2Proof.Proofs

/-! Images and copy reads: an image offered to the writer, an entry tested when its copy reads are answered, and the rows
COPY_READ_DONE and COPY_READ_FAILED (R39, R48, R57, R60, R62 to R66, R69, R95, R116). -/

namespace Sys2Proof.Proofs

open Sys2Proof.Machine Sys2Proof.Laws

/-! ### Lines and entries changed -/

/-- A line of an entry is changed. -/
theorem modLine_eq (p : Part) (t : Tag) (line : Addr) (f : HoldLine → HoldLine) : modLine p t line f = { p with
    hold := { p.hold with queue := p.hold.queue.map fun x =>
      if x.req.tag = t then { x with lines := x.lines.map fun l => if l.line = line then f l else l } else x } } := by
  simp only [modLine, modHold_eq, beq_iff_eq]

/-- Changing an entry that has left changes nothing. -/
theorem modHold_absent {p : Part} {t : Tag} (h : ∀ x ∈ p.hold.queue, x.req.tag ≠ t) (f : HoldEntry → HoldEntry) :
    modHold p t f = p := by
  have hq : (p.hold.queue.map fun e => if e.req.tag = t then f e else e) = p.hold.queue := by
    rw [List.map_congr_left fun e he => if_neg (h e he), List.map_id']
  rw [modHold_eq, hq]

/-- An entry that has left is not found. -/
theorem holdEntry_eq_none_iff (p : Part) (t : Tag) : holdEntry p t = none ↔ ∀ x ∈ p.hold.queue, x.req.tag ≠ t := by
  simp [holdEntry]

/-- The entry of a tag that no other entry has. -/
theorem holdEntry_unique {p : Part} {e : HoldEntry} (he : e ∈ p.hold.queue)
    (hu : ∀ x ∈ p.hold.queue, x.req.tag = e.req.tag → x = e) : holdEntry p e.req.tag = some e :=
  find?_unique he (by simp) fun x hx ht => hu x hx (by simpa using ht)

/-! ### UNDO placements (R95) -/

section
variable {p q : Part} {r : PlaceReq} {n : Seq}

/-- In a drain nothing is placed (R94, R110). -/
theorem place_draining (h : p.command.busy = .softReset) (r : PlaceReq) : place p r = (p, none) := by
  have ha : accepts p r.kind = false := by simp [accepts, draining, h]
  simp [place, ha]

theorem placeUndo_placed (h : place p r = (q, some n)) : placeUndo p r = (q, some n) := by
  simp [placeUndo, h]

/-- A refusal of a RUNNING writer suspends it (R95). -/
theorem placeUndo_suspends (h : place p r = (q, none)) (hs : q.writer.state = .running) (hd : draining q = false) :
    placeUndo p r =
      (raiseEvent { q with writer := { q.writer with state := .suspended } } .writerSuspended, none) := by
  simp [placeUndo, h, hs, hd]

/-- Any other refusal changes nothing more. -/
theorem placeUndo_refused (h : place p r = (q, none)) (hs : q.writer.state ≠ .running ∨ draining q = true) :
    placeUndo p r = (q, none) := by
  rcases hs with hs | hs <;> simp [placeUndo, h, hs]

/-- A placement refused by a writer in service leaves the rest of the part alone. -/
theorem refused_besides (h : place p r = (q, none)) (hs : q.writer.state = .running ∨ q.writer.state = .suspended) :
    besidesPlacement q = besidesPlacement p := by
  refine (place_none h).resolve_left fun hh => ?_
  rcases hs with hs | hs <;> simp [hh] at hs

/-- A writer in service that refuses an UNDO record outside a drain is SUSPENDED from then on, with WRITER_SUSPENDED when it
was RUNNING (R95). -/
theorem placeUndo_inService (h : place p r = (q, none)) (hd : p.command.busy ≠ .softReset)
    (hs : q.writer.state = .running ∨ q.writer.state = .suspended) :
    placeUndo p r = ({ q with
      writer := { q.writer with state := .suspended },
      events := { q.events with flags := if q.writer.state = .running
        then q.events.flags ||| eventMask .writerSuspended else q.events.flags } }, none) := by
  have hb := refused_besides h hs
  simp only [besidesPlacement, Prod.mk.injEq] at hb
  have hd' : draining q = false := by
    obtain ⟨⟨-, -, -, -, -, -, -, -, hcommand, -⟩, -⟩ := hb
    simpa [draining, hcommand] using hd
  rcases hs with hs | hs
  · rw [placeUndo_suspends h hs hd', if_pos hs]
    rfl
  · rw [placeUndo_refused h (.inl (by simp [hs])), if_neg (by simp [hs]), ← hs]

end

/-! ### An image offered (R48, R62, R63) -/

/-- A line of an entry takes a substate; its others stay. -/
def withSub (line : Addr) (sub : LineState) (e : HoldEntry) : HoldEntry :=
  { e with lines := e.lines.map fun l => if l.line = line then { l with sub := sub } else l }

theorem modLine_sub (p : Part) (t : Tag) (line : Addr) (sub : LineState) :
    modLine p t line (fun l => { l with sub := sub }) = modHold p t (withSub line sub) := by
  rw [modLine_eq, modHold_eq]
  rfl

/-- The number of a placed UNDO record in the tracker and in the channel's counts (R39, R48); an untracked line's one is an
untracked save. -/
def recordCounted (p : Part) (e : HoldEntry) (line : Addr) (n : Seq) (loose : Bool) : Part := { p with
  tracker := if loose then p.tracker else p.tracker.map fun x => if x.line = line then { x with seq := some n } else x,
  channels := setAt p.channels e.channel
    { chan p e.channel with
      records := countUp (chan p e.channel).records,
      untrackedSaves := if loose then countUp (chan p e.channel).untrackedSaves
        else (chan p e.channel).untrackedSaves } }

/-- The UNDO record's number goes to the line, the tracker and the channel (R39, R48, R62). -/
theorem lineRecorded_eq (p : Part) (e : HoldEntry) (line : Addr) (n : Seq) {loose : Bool}
    (h : loose = e.lines.any fun l => l.line == line && l.untracked) :
    lineRecorded p e line n = modHold (recordCounted p e line n loose) e.req.tag
      (withSub line (if n ≤ p.writer.frontier then .durable else .placed n)) := by
  subst h
  simp only [lineRecorded, modLine_sub]
  cases e.lines.any fun l => l.line == line && l.untracked with
  | true => rfl
  | false => simp only [trackRecord, beq_iff_eq, recordCounted, Bool.false_eq_true, if_false]; rfl

section
variable {p q : Part} {e : HoldEntry} {line : Addr} {image : List Byte} {n : Seq}
  (he : holdEntry p e.req.tag = some e)
include he

/-- An image whose record is placed (R62). -/
theorem offerImage_placed (h : place p (undoRequest e line image) = (q, some n)) :
    offerImage p e.req.tag line image = lineRecorded q e line n := by
  simp only [offerImage, he, placeUndo_placed h]

/-- An image that is refused stays with its entry (R63). -/
theorem offerImage_held (h : placeUndo p (undoRequest e line image) = (q, none)) (hf : e.failed = false)
    (hw : withheld q e = false) :
    offerImage p e.req.tag line image = modHold q e.req.tag (withSub line (.held image)) := by
  simp [offerImage, he, h, hf, hw, modLine_sub]

/-- One of an entry that has failed or is withheld is discarded (R65, R116, log 45). -/
theorem offerImage_discarded (h : placeUndo p (undoRequest e line image) = (q, none))
    (hw : e.failed = true ∨ withheld q e = true) :
    offerImage p e.req.tag line image = modHold (untrackLine q line) e.req.tag (withSub line .pending) := by
  rcases hw with hw | hw <;> simp [offerImage, he, h, hw, modLine_sub]

end

/-! ### An entry tested (R57, R62 to R65, R116) -/

/-- Where an entry rests it waits exactly when it has an image left (R57, R63). -/
theorem isWaiting_restingState (ls : List HoldLine) : (restingState ls).isWaiting = ls.any HoldLine.isHeld := by
  unfold restingState
  cases ls.any HoldLine.isHeld with
  | true => rfl
  | false => cases ls.any HoldLine.isPending <;> rfl

/-- The part with the entry of a tag at its resting state (R63, R64). -/
def rested (p : Part) (t : Tag) : Part := modHold p t fun y => { y with state := restingState y.lines }

section
variable {p : Part} {t : Tag} {x : HoldEntry}

/-- An entry that has left takes no state. -/
theorem settleEntry_absent (h : holdEntry p t = none) : settleEntry p t = p := by
  have hm : modHold p t (fun e => { e with state := restingState e.lines }) = p :=
    modHold_absent ((holdEntry_eq_none_iff p t).mp h) _
  simp only [settleEntry, hm, expireLate, h]

theorem holdEntry_rested (h : holdEntry p t = some x) :
    holdEntry (rested p t) t = some { x with state := restingState x.lines } := by
  refine (holdEntry_modHold p t ?_).trans ?_
  · exact fun _ => rfl
  · rw [h]
    rfl

/-- An entry with no image left, or before its deadline, rests (R57). -/
theorem settleEntry_rests (h : holdEntry p t = some x)
    (hd : (∀ l ∈ x.lines, l.isHeld = false) ∨ ∀ d, x.deadline = some d → p.now ≤ d) : settleEntry p t = rested p t := by
  rcases hd with hd | hd
  · exact expireLate_moving (holdEntry_rested h) (by simpa [isWaiting_restingState] using hd)
  · exact expireLate_early (holdEntry_rested h) hd

/-- One that enters WAIT_SPACE past its deadline expires (R57, R63). -/
theorem settleEntry_expires {d : Time} (h : holdEntry p t = some x) (hl : ∃ l ∈ x.lines, l.isHeld = true)
    (hd : x.deadline = some d) (hlt : d < p.now) :
    settleEntry p t = expire (rested p t) { x with state := .waitSpace } := by
  have hany : x.lines.any HoldLine.isHeld = true := by simpa using hl
  have hs : restingState x.lines = .waitSpace := if_pos hany
  have hx := holdEntry_rested h
  rw [hs] at hx
  exact expireLate_late hx rfl hd hlt

end

section
variable {p : Part} {e : HoldEntry} (he : holdEntry p e.req.tag = some e)
include he

/-- While a copy read of the entry is in flight it stays as it is (R62). -/
theorem copiesTested_inFlight (h : ∃ l ∈ e.lines, l.sub = .copying) : copiesTested p e.req.tag = p := by
  have hany : (e.lines.any fun l => l.sub == .copying) = true := by simpa using h
  simp only [copiesTested, he, hany, if_true]

variable (h : ∀ l ∈ e.lines, l.sub ≠ .copying)
include h

/-- With none left in flight a withheld entry is refused (R116). -/
theorem copiesTested_withheld (hw : withheld p e = true) (hf : p.power.frozen = false) :
    copiesTested p e.req.tag = dismiss p e .refused := by
  have hany : (e.lines.any fun l => l.sub == .copying) = false := by simpa using h
  simp [copiesTested, he, hany, hw, hf]

/-- A failed one fails (R65, R164, log 20). -/
theorem copiesTested_failed (hw : withheld p e = false ∨ p.power.frozen = true) (hf : e.failed = true) :
    copiesTested p e.req.tag = dismiss p e .failed := by
  have hany : (e.lines.any fun l => l.sub == .copying) = false := by simpa using h
  rcases hw with hw | hw <;> simp [copiesTested, he, hany, hw, hf]

/-- Any other offers its images again and goes where its lines bring it (R62 to R64). -/
theorem copiesTested_goesOn (hw : withheld p e = false ∨ p.power.frozen = true) (hf : e.failed = false) :
    copiesTested p e.req.tag = settleEntry (offerHeld p e) e.req.tag := by
  have hany : (e.lines.any fun l => l.sub == .copying) = false := by simpa using h
  rcases hw with hw | hw <;> simp [copiesTested, he, hany, hw, hf]

end

/-- With no image left nothing is offered. -/
theorem offerHeld_none {p : Part} {e : HoldEntry} (h : ∀ l ∈ e.lines, l.isHeld = false) : offerHeld p e = p := by
  have hf : e.lines.filter HoldLine.isHeld = [] := by simpa using h
  rw [offerHeld, hf]
  rfl

/-- Nor is anything while the writer is not RUNNING (R63). -/
theorem offerHeld_stopped {p : Part} {e : HoldEntry} (h : p.writer.state ≠ .running) : offerHeld p e = p := by
  have hstep : ∀ ls : List HoldLine, ls.foldl
      (fun q l => if q.writer.state == .running then offerImage q e.req.tag l.line l.image else q) p = p := by
    intro ls
    induction ls with
    | nil => rfl
    | cons l ls ih => simpa [h] using ih
  exact hstep _

end Sys2Proof.Proofs

/-! The rows COPY_READ_DONE and COPY_READ_FAILED: the offer of the image and the test of its entry, in every case of the two
(R39, R48, R57, R60, R62 to R66, R69, R95, R116). -/

namespace Sys2Proof.Proofs

open Sys2Proof.Machine Sys2Proof.Laws

/-! ### The rows -/

/-- The part with a copy read's tag back in the pool and its slot free (R60, R152). -/
def readBack (p : Part) (t : DTag) (k : Fin 4) : Part := freeSlot (freeTag p t) k

/-- An entry after a copy read of it has failed: the line is PENDING and the entry has failed (R65, log 45). -/
def copyFaulted (line : Addr) (e : HoldEntry) : HoldEntry := { withSub line .pending e with failed := true }

@[simp] theorem copyFaulted_req (line : Addr) (e : HoldEntry) : (copyFaulted line e).req = e.req := rfl

section
variable {p : Part} {t : DTag} {r : DownReq} {k : Fin 4} {s : CopySlot} (w : List Instr)
  (hi : getAt p.arbiter.issued t = some r) (hp : r.purpose = .copy k) (hs : getAt p.slots k = some s)
include hi hp hs

/-- COPY_READ_DONE of a read whose entry is there: the image is offered and the entry tested (R62). -/
theorem exec_copyReadDone_owned {tag : Tag} (ho : s.owner = some tag) (data : List Byte) :
    exec (.copyReadDone t data) ⟨p, w⟩ =
      .next ⟨settle (copiesTested (offerImage (readBack p t k) tag s.line data) tag), w⟩ := by
  have hi' : issuedAt p t = some r := hi
  have hk : copySlotOf p t = some k := by simp only [copySlotOf, hi', hp]
  have hs' : getAt (freeTag p t).slots k = some s := hs
  show Host.Outcome.next (State.mk (match copySlotOf p t with
    | none => p
    | some k => settle (copyDone (freeTag p t) k data)) w) = _
  simp only [hk, copyDone, hs', ho]
  rfl

/-- COPY_READ_FAILED of such a read: its line is PENDING, and the entry has failed and is tested (R65, log 45). -/
theorem exec_copyReadFailed_owned {tag : Tag} (ho : s.owner = some tag) : exec (.copyReadFailed t) ⟨p, w⟩ =
    .next ⟨settle (copiesTested (modHold (untrackLine (raiseEvent (readBack p t k) .copyFault) s.line) tag
      (copyFaulted s.line)) tag), w⟩ := by
  have hi' : issuedAt p t = some r := hi
  have hk : copySlotOf p t = some k := by simp only [copySlotOf, hi', hp]
  have hs' : getAt (freeTag p t).slots k = some s := hs
  have hm := modHold_modHold (untrackLine (raiseEvent (readBack p t k) .copyFault) s.line) tag
    (f := withSub s.line .pending) (fun x => { x with failed := true }) fun _ => rfl
  show Host.Outcome.next (State.mk (match copySlotOf p t with
    | none => p
    | some k => settle (copyFailed (freeTag p t) k)) w) = _
  simp only [hk, copyFailed, hs', ho, modLine_sub]
  exact congrArg (fun v => Host.Outcome.next (State.mk (settle (copiesTested v tag)) w)) hm

/-- The answer to a read whose entry has left: the data goes with the line's tracker entry (R66, R69). -/
theorem exec_copyRead_disowned (ho : s.owner = none) (data : List Byte) :
    exec (.copyReadDone t data) ⟨p, w⟩ = .next ⟨settle (discardCopy (readBack p t k) s.line), w⟩ ∧
    exec (.copyReadFailed t) ⟨p, w⟩ =
      .next ⟨settle (discardCopy (raiseEvent (readBack p t k) .copyFault) s.line), w⟩ := by
  have hi' : issuedAt p t = some r := hi
  have hk : copySlotOf p t = some k := by simp only [copySlotOf, hi', hp]
  have hs' : getAt (freeTag p t).slots k = some s := hs
  refine ⟨?_, ?_⟩
  · show Host.Outcome.next (State.mk (match copySlotOf p t with
      | none => p
      | some k => settle (copyDone (freeTag p t) k data)) w) = _
    simp only [hk, copyDone, hs', ho]
    rfl
  · show Host.Outcome.next (State.mk (match copySlotOf p t with
      | none => p
      | some k => settle (copyFailed (freeTag p t) k)) w) = _
    simp only [hk, copyFailed, hs', ho]
    rfl

end

/-! ### The lines of an entry after one has changed -/

/-- An entry is withheld while the drain of its epoch's abort goes on (R116). -/
theorem withheld_iff (p : Part) (e : HoldEntry) : withheld p e = true ↔ ∃ x, p.restore.rollback = some x ∧
    x.phase = .draining ∧ e.req.kind = .write ∧ e.channel = x.channel ∧ e.epoch = some x.epoch ∧ e.state = .copying := by
  unfold withheld
  cases p.restore.rollback with
  | none => simp
  | some x => simp [isWrite_iff, and_assoc]

/-- Only the restore engine withholds. -/
theorem withheld_congr {p q : Part} (h : q.restore = p.restore) (e : HoldEntry) : withheld q e = withheld p e := by
  unfold withheld
  rw [h]

/-- Some line has a property that the changed one does not have: another one has it. -/
theorem any_withSub {P : HoldLine → Bool} {line : Addr} {sub : LineState} (e : HoldEntry)
    (h : ∀ l : HoldLine, P { l with sub := sub } = false) :
    (withSub line sub e).lines.any P = e.lines.any fun l => l.line != line && P l := by
  simp only [withSub, List.any_map]
  congr 1
  funext l
  by_cases hl : l.line = line
  · simp only [Function.comp_apply, if_pos hl, h]
    simp [hl]
  · simp [hl]

/-- Two changes that agree on the one entry of a tag are the same. -/
theorem modHold_congr {p : Part} {e : HoldEntry} {f g : HoldEntry → HoldEntry}
    (hu : ∀ x ∈ p.hold.queue, x.req.tag = e.req.tag → x = e) (h : f e = g e) :
    modHold p e.req.tag f = modHold p e.req.tag g := by
  rw [modHold_eq, modHold_eq, List.map_congr_left fun x hx => ?_]
  by_cases ht : x.req.tag = e.req.tag
  · rw [if_pos ht, if_pos ht, hu x hx ht, h]
  · rw [if_neg ht, if_neg ht]

/-- The test of an entry that has just changed, neither withheld nor failed, with nothing left to offer: it stays while a
copy read is in flight, and rests then (R57, R62, R63). -/
theorem copiesTested_modHold {p : Part} {e : HoldEntry} {f : HoldEntry → HoldEntry} (hf : ∀ x, (f x).req = x.req)
    (he : holdEntry p e.req.tag = some e) (hw : withheld p (f e) = false) (hfail : (f e).failed = false)
    (hrest : ((f e).lines.any fun l => l.sub == .copying) = false →
      ((∀ l ∈ (f e).lines, l.isHeld = false) ∨ p.writer.state ≠ .running) ∧
      ((∀ l ∈ (f e).lines, l.isHeld = false) ∨ ∀ d, (f e).deadline = some d → p.now ≤ d)) :
    copiesTested (modHold p e.req.tag f) e.req.tag =
      if (f e).lines.any fun l => l.sub == .copying then modHold p e.req.tag f
      else modHold p e.req.tag fun x => { f x with state := restingState (f x).lines } := by
  have hx : holdEntry (modHold p e.req.tag f) (f e).req.tag = some (f e) := by
    rw [hf, holdEntry_modHold p e.req.tag hf, he]
    rfl
  cases hc : (f e).lines.any fun l => l.sub == .copying with
  | true =>
    rw [if_pos rfl]
    have := copiesTested_inFlight hx (by simpa using hc)
    rwa [hf] at this
  | false =>
    rw [if_neg (by simp)]
    obtain ⟨hoffer, hdue⟩ := hrest hc
    have hnone : offerHeld (modHold p e.req.tag f) (f e) = modHold p e.req.tag f := by
      rcases hoffer with h | h
      · exact offerHeld_none h
      · exact offerHeld_stopped h
    have := copiesTested_goesOn hx (by simpa using hc) (.inl hw) hfail
    rw [hnone, settleEntry_rests hx hdue, rested, hf, modHold_modHold p e.req.tag _ hf] at this
    exact this

/-! ### A copy read answered DONE (R62, R63) -/

section
variable {p q : Part} {e : HoldEntry} {line : Addr} {data : List Byte} {n : Seq} {loose inFlight : Bool}
  (he : holdEntry p e.req.tag = some e) (hu : ∀ x ∈ p.hold.queue, x.req.tag = e.req.tag → x = e)
  (hs : e.state = .copying) (hf : e.failed = false) (hw : withheld p e = false)
  (hflight : inFlight = e.lines.any fun l => l.line != line && l.sub == .copying)
include he hu hs hf hw hflight

/-- An image placed and its entry tested: the line is PLACED, the record counts, and with no read left in flight the entry
goes on (R39, R48, R62). -/
theorem imagePlaced_tested (hloose : loose = e.lines.any fun l => l.line == line && l.untracked)
    (hheld : inFlight = true ∨ ∀ l ∈ e.lines, l.line ≠ line → l.isHeld = false)
    (hp : place p (undoRequest e line data) = (q, some n)) (hn : p.writer.frontier < n) :
    copiesTested (offerImage p e.req.tag line data) e.req.tag =
      modHold (recordCounted q e line n loose) e.req.tag fun x => { withSub line (.placed n) x with
        state := if inFlight = true ∨ (e.lines.any fun l => l.line != line && l.isPending) = true then .copying
          else .recording } := by
  have hb := place_besides hp
  simp only [besidesPlacement, Prod.mk.injEq] at hb
  obtain ⟨⟨-, -, -, hhold, -, -, hrestore, -⟩, ⟨-, -, -, hfrontier, -⟩, -⟩ := hb
  have hcopying := any_withSub (P := fun l => l.sub == .copying) (line := line) (sub := .placed n) e fun _ => rfl
  have hanyheld := any_withSub (P := HoldLine.isHeld) (line := line) (sub := .placed n) e fun _ => rfl
  have hpending := any_withSub (P := HoldLine.isPending) (line := line) (sub := .placed n) e
    fun l => by simp [HoldLine.isPending]
  rw [offerImage_placed he hp, lineRecorded_eq q e line n hloose, hfrontier, if_neg (Nat.not_le.mpr hn)]
  have hnone : inFlight = false → (withSub line (.placed n) e).lines.any HoldLine.isHeld = false := by
    intro hfl
    rw [hanyheld]
    simpa [hfl] using hheld
  have hentry : holdEntry (recordCounted q e line n loose) e.req.tag = some e := by
    rw [← he]
    exact congrArg (List.find? _ ·.queue) hhold
  have hwith : withheld (recordCounted q e line n loose) (withSub line (.placed n) e) = false :=
    (withheld_congr (p := p) hrestore _).trans hw
  have hu' : ∀ x ∈ (recordCounted q e line n loose).hold.queue, x.req.tag = e.req.tag → x = e := by
    have h : (recordCounted q e line n loose).hold = p.hold := hhold
    rwa [h]
  have htest := copiesTested_modHold (f := withSub line (.placed n)) (fun _ => rfl) hentry hwith hf fun h => by
    have := hnone (by rw [hflight, ← hcopying, h])
    exact ⟨.inl (by simpa using this), .inl (by simpa using this)⟩
  rw [htest, hcopying, ← hflight]
  cases hfl : inFlight with
  | true =>
    rw [if_pos rfl]
    refine modHold_congr hu' ?_
    simp [withSub, hs]
  | false =>
    rw [if_neg (by simp)]
    refine modHold_congr hu' ?_
    rw [restingState, hnone hfl, hpending]
    simp

/-- An image refused by a writer in service and its entry tested: the line is HELD, the writer SUSPENDED, and with no read left
in flight the entry is in WAIT_SPACE (R63, R95). -/
theorem imageHeld_tested (hd : p.command.busy ≠ .softReset) (hp : place p (undoRequest e line data) = (q, none))
    (hservice : q.writer.state = .running ∨ q.writer.state = .suspended)
    (hdue : inFlight = true ∨ ∀ d, e.deadline = some d → p.now ≤ d) (hline : ∃ l ∈ e.lines, l.line = line) :
    copiesTested (offerImage p e.req.tag line data) e.req.tag =
      modHold { q with
        writer := { q.writer with state := .suspended },
        events := { q.events with flags := if q.writer.state = .running
          then q.events.flags ||| eventMask .writerSuspended else q.events.flags } } e.req.tag fun x =>
        { withSub line (.held data) x with state := if inFlight = true then .copying else .waitSpace } := by
  have hb := refused_besides hp hservice
  simp only [besidesPlacement, Prod.mk.injEq] at hb
  obtain ⟨⟨-, -, -, hhold, -, -, hrestore, -, -, -, hnow⟩, -⟩ := hb
  have hcopying := any_withSub (P := fun l => l.sub == .copying) (line := line) (sub := .held data) e fun _ => rfl
  have hheld : (withSub line (.held data) e).lines.any HoldLine.isHeld = true := by
    obtain ⟨l, hl, rfl⟩ := hline
    exact List.any_eq_true.mpr ⟨_, List.mem_map_of_mem hl, by simp [HoldLine.isHeld]⟩
  have hplace := placeUndo_inService hp hd hservice
  generalize hQ : ({ q with
    writer := { q.writer with state := .suspended },
    events := { q.events with flags := if q.writer.state = .running
      then q.events.flags ||| eventMask .writerSuspended else q.events.flags } } : Part) = Q at hplace
  have hQhold : Q.hold = p.hold := by rw [← hQ]; exact hhold
  have hQrestore : Q.restore = p.restore := by rw [← hQ]; exact hrestore
  have hQnow : Q.now = p.now := by rw [← hQ]; exact hnow
  have hQstate : Q.writer.state ≠ .running := by rw [← hQ]; simp
  have hentry : holdEntry Q e.req.tag = some e := by rw [holdEntry, hQhold]; exact he
  have hu' : ∀ x ∈ Q.hold.queue, x.req.tag = e.req.tag → x = e := by rwa [hQhold]
  have hwith : ∀ x : HoldEntry, withheld Q x = withheld p x := withheld_congr hQrestore
  have htest := copiesTested_modHold (f := withSub line (.held data)) (fun _ => rfl) hentry ((hwith _).trans hw) hf fun h => by
    have hfl : inFlight = false := by rw [hflight, ← hcopying, h]
    exact ⟨.inr hQstate, .inr (by simpa [hfl, hQnow, withSub] using hdue)⟩
  rw [offerImage_held he hplace hf ((hwith e).trans hw), htest, hcopying, ← hflight]
  cases hfl : inFlight with
  | true =>
    rw [if_pos rfl]
    refine modHold_congr hu' ?_
    simp [withSub, hs]
  | false =>
    rw [if_neg (by simp)]
    refine modHold_congr hu' ?_
    rw [restingState, hheld]
    simp

end

end Sys2Proof.Proofs

/-! What a copy read's answer comes to, clause by clause: the last read of an entry answered FAILED, an image offered in every
condition of the writer, and an entry tested (R48, R57, R62 to R66, R69, R95, R116). -/

namespace Sys2Proof.Proofs

open Sys2Proof.Machine Sys2Proof.Laws

/-! ### The last copy read answered FAILED (R65) -/

/-- An entry whose last copy read has failed, with no image held, is answered FAILED and leaves (R65). -/
theorem lastReadFailed_tested {p : Part} {e : HoldEntry} {line : Addr} (he : holdEntry p e.req.tag = some e)
    (hw : withheld p e = false) (hl : ∀ l ∈ e.lines, l.line = line ∨ (l.sub ≠ .copying ∧ l.isHeld = false)) :
    copiesTested (modHold p e.req.tag (copyFaulted line)) e.req.tag = { p with
      port := { p.port with tags := setAt p.port.tags e.req.tag false,
                            responses := p.port.responses ++ [{ tag := e.req.tag, code := .failed, data := [] }] },
      hold := { p.hold with queue := p.hold.queue.filter (fun x => x.req.tag != e.req.tag),
                            lineTest := true, headRetry := true },
      slots := p.slots.map fun s => s.map fun k => if k.owner == some e.req.tag then { k with owner := none } else k } := by
  have hx : holdEntry (modHold p e.req.tag (copyFaulted line)) (copyFaulted line e).req.tag = some (copyFaulted line e) := by
    rw [copyFaulted_req, holdEntry_modHold p e.req.tag (copyFaulted_req line), he]
    rfl
  have hlines : ∀ l ∈ (copyFaulted line e).lines, l.sub ≠ .copying ∧ l.isHeld = false := by
    intro l hmem
    obtain ⟨y, hy, rfl⟩ := List.mem_map.mp hmem
    by_cases hline : y.line = line
    · simp [hline, HoldLine.isHeld]
    · rw [if_neg hline]
      exact (hl y hy).resolve_left hline
  have htracker : (p.tracker.filter fun x => !((copyFaulted line e).lines.any fun l => l.isHeld && l.line == x.line)) =
      p.tracker := by
    refine List.filter_eq_self.mpr fun x _ => ?_
    simp only [Bool.not_eq_true', List.any_eq_false]
    intro l hmem
    simp [(hlines l hmem).2]
  have htest := copiesTested_failed hx (fun l hmem => (hlines l hmem).1) (.inl hw) rfl
  rw [copyFaulted_req] at htest
  rw [htest, dismiss_eq, copyFaulted_req, modHold]
  dsimp only
  rw [htracker, filter_changed p.hold.queue e.req.tag (copyFaulted_req line)]

/-! ### An image offered in every condition of the writer (R62, R63, R65, R95, log 45) -/

section
variable {p q : Part} {e : HoldEntry} {line : Addr} {image : List Byte} (he : holdEntry p e.req.tag = some e)
  (hp : place p (undoRequest e line image) = (q, none))
include he hp

/-- An image refused by a writer in service, outside a drain: HELD or discarded, and the writer SUSPENDED. -/
theorem offerImage_inService (hd : p.command.busy ≠ .softReset)
    (hservice : q.writer.state = .running ∨ q.writer.state = .suspended) {s : Part} (hs : s = { q with
      writer := { q.writer with state := .suspended },
      events := { q.events with flags := if q.writer.state = .running
        then q.events.flags ||| eventMask .writerSuspended else q.events.flags } }) :
    (e.failed = false → withheld p e = false →
      offerImage p e.req.tag line image = modHold s e.req.tag (withSub line (.held image))) ∧
    ((e.failed = true ∨ withheld p e = true) →
      offerImage p e.req.tag line image = modHold (untrackLine s line) e.req.tag (withSub line .pending)) := by
  have hb := refused_besides hp hservice
  simp only [besidesPlacement, Prod.mk.injEq] at hb
  obtain ⟨⟨-, -, -, -, -, -, hrestore, -⟩, -⟩ := hb
  have hplace := placeUndo_inService hp hd hservice
  rw [← hs] at hplace
  have hwith : withheld s e = withheld p e := withheld_congr (by rw [hs]; exact hrestore) e
  exact ⟨fun hf hw => offerImage_held he hplace hf (hwith.trans hw),
    fun hw => offerImage_discarded he hplace (by rwa [hwith])⟩

/-- An image refused in a drain, or by a writer out of service: HELD or discarded, and nothing more. -/
theorem offerImage_outOfService
    (hd : p.command.busy = .softReset ∨ (q.writer.state ≠ .running ∧ q.writer.state ≠ .suspended)) :
    (e.failed = false → withheld q e = false →
      offerImage p e.req.tag line image = modHold q e.req.tag (withSub line (.held image))) ∧
    ((e.failed = true ∨ withheld q e = true) →
      offerImage p e.req.tag line image = modHold (untrackLine q line) e.req.tag (withSub line .pending)) := by
  have hplace : placeUndo p (undoRequest e line image) = (q, none) := by
    refine placeUndo_refused hp ?_
    rcases hd with hd | ⟨hd, -⟩
    · rw [place_draining hd, Prod.mk.injEq] at hp
      exact .inr (by simp [← hp.1, draining, hd])
    · exact .inl hd
  exact ⟨fun hf hw => offerImage_held he hplace hf hw, fun hw => offerImage_discarded he hplace hw⟩

/-- A placement that halts the writer leaves what the halt has left: the entry and the tracker are gone (R98, R102). -/
theorem offerImage_halted (hh : q.writer.state = .halted) (ht : q.tracker = [])
    (hq : ∀ x ∈ q.hold.queue, x.req.tag ≠ e.req.tag) : offerImage p e.req.tag line image = q := by
  have hout := offerImage_outOfService he hp (.inr (by simp [hh]))
  have huntrack : untrackLine q line = q := by
    unfold untrackLine
    rw [ht, List.filter_nil, ← ht]
  by_cases hw : e.failed = true ∨ withheld q e = true
  · rw [hout.2 hw, huntrack, modHold_absent hq]
  · rw [not_or, Bool.not_eq_true, Bool.not_eq_true] at hw
    rw [hout.1 hw.1 hw.2, modHold_absent hq]

end

/-! ### The images of an entry offered again (R63) -/

/-- A HELD line holds its image. -/
theorem isHeld_iff (l : HoldLine) : l.isHeld = true ↔ ∃ image, l.sub = .held image := by
  unfold HoldLine.isHeld
  cases l.sub <;> simp

/-- An image is offered while the writer is RUNNING. -/
def offerStep (t : Tag) (v : Part) (l : HoldLine) : Part :=
  if v.writer.state = .running then offerImage v t l.line l.image else v

theorem offerHeld_eq (p : Part) (e : HoldEntry) :
    offerHeld p e = (e.lines.filter HoldLine.isHeld).foldl (offerStep e.req.tag) p := by
  simp only [offerHeld, beq_iff_eq]
  rfl

/-- Settles O20: the rows are the offer and the test; the offer in every condition of the writer, and the test by what is in
flight, withheld, failed or left to offer. -/
theorem copyReadIsAnswered : Obligations.CopyReadIsAnswered := by
  refine ⟨?_, ?_, ?_, ?_, ?_, ?_, fun _ => rfl⟩
  · rintro p q w t r k line e data _ loose inFlight hi hpur hslot he hu hs hf hw hd hloose hflight hheld rfl
    refine ⟨fun n hn hp => ?_, fun hp hservice hdue hline => ?_⟩
    · rw [exec_copyReadDone_owned w hi hpur hslot rfl, imagePlaced_tested (p := readBack p t k) he hu hs hf hw hflight
        hloose hheld hp hn, modHold_eq]
      rfl
    · rw [exec_copyReadDone_owned w hi hpur hslot rfl, imageHeld_tested (p := readBack p t k) he hu hs hf hw hflight
        hd hp hservice hdue hline, modHold_eq]
      rfl
  · intro p w t r k line e hi hpur hslot he _ hw hl
    rw [exec_copyReadFailed_owned w hi hpur hslot rfl, lastReadFailed_tested
      (p := untrackLine (raiseEvent (readBack p t k) .copyFault) line) he hw hl]
    rfl
  · rintro p _ w t r k line c data hi hpur hslot rfl
    exact exec_copyRead_disowned w hi hpur hslot rfl data
  · rintro p _ w t r k line c tag data hi hpur hslot rfl
    refine ⟨exec_copyReadDone_owned w hi hpur hslot rfl data, ?_⟩
    rw [exec_copyReadFailed_owned w hi hpur hslot rfl, modHold_eq]
    rfl
  · rintro p q line e image _ _ _ he rfl rfl rfl
    refine ⟨fun n hp => ?_, fun hp hd hservice => ?_, fun hp hd => ?_, fun hp hh ht hq => offerImage_halted he hp hh ht hq⟩
    · have hb := place_besides hp
      simp only [besidesPlacement, Prod.mk.injEq] at hb
      obtain ⟨-, ⟨-, -, -, hfrontier, -⟩, -⟩ := hb
      rw [offerImage_placed he hp, lineRecorded_eq q e line n rfl, hfrontier, modHold_eq]
      rfl
    · obtain ⟨hkept, hgone⟩ := offerImage_inService he hp hd hservice rfl
      exact ⟨fun hf hw => by rw [hkept hf hw, modHold_eq]; rfl, fun hw => by rw [hgone hw, modHold_eq]; rfl⟩
    · obtain ⟨hkept, hgone⟩ := offerImage_outOfService he hp hd
      exact ⟨fun hf hw => by rw [hkept hf hw, modHold_eq]; rfl, fun hw => by rw [hgone hw, modHold_eq]; rfl⟩
  · intro p e leaves he hleaves
    have hdismiss : ∀ code, dismiss p e code = leaves code := fun code => by rw [hleaves, dismiss_eq]
    refine ⟨withheld_iff p e, copiesTested_inFlight he, fun h => ⟨fun hw hf => ?_, fun hw => ⟨fun hf => ?_, ?_⟩⟩⟩
    · rw [copiesTested_withheld he h hw hf, hdismiss]
    · rw [copiesTested_failed he h hw hf, hdismiss]
    · intro q hf hq
      have hoffer : offerHeld p e = q := by
        rw [offerHeld_eq, hq]
        refine List.foldl_ext _ _ _ fun v l hl => ?_
        obtain ⟨image, himage⟩ := (isHeld_iff l).mp (List.mem_filter.mp hl).2
        simp only [offerStep, HoldLine.image, himage]
        cases v.writer.state <;> simp
      rw [copiesTested_goesOn he h hw hf, hoffer]
      refine ⟨fun hq => settleEntry_absent hq, ?_⟩
      rintro x u hx rfl
      have hrested : rested q e.req.tag = _ := modHold_eq q e.req.tag _
      rw [← hrested]
      exact ⟨fun d hl hd hlt => settleEntry_expires hx hl hd hlt, fun hd => settleEntry_rests hx hd⟩

end Sys2Proof.Proofs

/-! Space handed out: a commit that asks for its record, the waiting control requests, the return to RUNNING and the HELD images
offered again, and the order of the internal events (R30, R31, R64, R81, R95, R96, R103). -/

namespace Sys2Proof.Proofs

open Sys2Proof.Machine Sys2Proof.Laws

/-! ### A drained commit (R30, R31) -/

/-- A COMMIT marker is in progress whose record is not placed. -/
theorem commitUnplaced_iff (p : Part) (c : Chan) :
    commitUnplaced p c = true ↔ ∃ m, (chan p c).marker = some m ∧ m.action = .commit ∧ m.record = none := by
  unfold commitUnplaced
  cases (chan p c).marker <;> simp

/-- No COMMIT request of the channel waits at the writer. -/
theorem commitWaits_eq_false_iff (p : Part) (c : Chan) :
    commitWaits p c = false ↔ ∀ r ∈ p.writer.waiting, r.kind = .commit → r.channel ≠ c := by
  simp [commitWaits]

/-- No write of the epoch is held or outstanding (R30). -/
theorem commitDrained_iff (p : Part) (c : Chan) : commitDrained p c = true ↔
    (∀ e ∈ p.hold.queue, e.req.kind = .write → e.channel = c → e.epoch ≠ some (chan p c).epoch) ∧
      (chan p c).outstanding = 0 := by
  simp [commitDrained, isWrite_iff]

/-- The conditions of a commit that asks for its record (R30, R31). -/
theorem commitReady_iff (p : Part) (c : Chan) : commitReady p c = true ↔
    (chan p c).state = .committing ∧ (∃ m, (chan p c).marker = some m ∧ m.action = .commit ∧ m.record = none) ∧
      (∀ r ∈ p.writer.waiting, r.kind = .commit → r.channel ≠ c) ∧
      (∀ e ∈ p.hold.queue, e.req.kind = .write → e.channel = c → e.epoch ≠ some (chan p c).epoch) ∧
      (chan p c).outstanding = 0 := by
  simp only [commitReady, Bool.and_eq_true, beq_iff_eq, Bool.not_eq_true', commitUnplaced_iff, commitWaits_eq_false_iff,
    commitDrained_iff, and_assoc]

section
variable {p q : Part} {c : Chan} (hl : (chan p c).records ≠ 0 ∨ (chan p c).torn = true)
include hl

theorem epoch_not_empty : ¬ ((chan p c).records == 0 && !(chan p c).torn) = true := by
  rw [Bool.and_eq_true, beq_iff_eq, Bool.not_eq_true', not_and, Bool.not_eq_false]
  exact fun h => hl.resolve_left (not_not.mpr h)

/-- A commit whose epoch left something and whose record is placed: the marker keeps the number (R31). -/
theorem commitAsks_placed {n : Seq} (h : place p (commitRequest p c) = (q, some n)) :
    commitAsks p c = commitPlaced q c n := by
  rw [commitAsks, if_neg (epoch_not_empty hl), h]

/-- One whose record is not placed waits, unless the placement has settled its marker (R31, R96). -/
theorem commitAsks_refused (h : place p (commitRequest p c) = (q, none)) : commitAsks p c =
    if commitUnplaced q c then queueControl q (commitRequest p c) else q := by
  rw [commitAsks, if_neg (epoch_not_empty hl), h]

end

/-! ### Waiting control requests (R96) -/

/-- The request at the head of the list is placed when it can be, and its block takes the number. -/
theorem waitingStep_placed {p q : Part} {r : PlaceReq} {rest : List PlaceReq} {n : Seq}
    (hw : p.writer.waiting = r :: rest) (ha : accepts p r.kind = true) (hb : rowAllows p r.kind = true)
    (hp : place { p with writer := { p.writer with waiting := rest } } r = (q, some n)) :
    waitingStep p = some (controlPlaced q r n) := by
  simp only [waitingStep, hw, ha, hb, Bool.and_self, if_true, hp]

/-- A placement that gives no number leaves what the halt has left (R98). -/
theorem waitingStep_halted {p q : Part} {r : PlaceReq} {rest : List PlaceReq}
    (hw : p.writer.waiting = r :: rest) (ha : accepts p r.kind = true) (hb : rowAllows p r.kind = true)
    (hp : place { p with writer := { p.writer with waiting := rest } } r = (q, none)) : waitingStep p = some q := by
  simp only [waitingStep, hw, ha, hb, Bool.and_self, if_true, hp]

/-! ### The return to RUNNING (R103) -/

theorem resumeStep_eq (p : Part) : resumeStep p =
    if p.writer.state = .suspended ∧ p.command.busy ≠ .softReset ∧ rowAllows p .undo = true then
      some { p with writer := { p.writer with state := .running } }
    else none := by
  unfold resumeStep
  exact if_congr (by simp [draining, and_assoc]) rfl rfl

/-! ### HELD images offered again (R64) -/

/-- Of the lines of an entry at one address there is one, so what holds of some of them holds of it. -/
theorem any_atLine {ls : List HoldLine} {l : HoldLine} (hm : l ∈ ls) (hu : ∀ y ∈ ls, y.line = l.line → y = l)
    (P : HoldLine → Bool) : (ls.any fun y => y.line == l.line && P y) = P l := by
  rw [Bool.eq_iff_iff, List.any_eq_true]
  constructor
  · rintro ⟨y, hy, h⟩
    rw [Bool.and_eq_true, beq_iff_eq] at h
    rw [← hu y hy h.1]
    exact h.2
  · exact fun h => ⟨l, hm, by simp [h]⟩

/-- A line that lacks a property may be left out. -/
theorem any_besideLine {ls : List HoldLine} {l : HoldLine} (hu : ∀ y ∈ ls, y.line = l.line → y = l) {P : HoldLine → Bool}
    (h : P l = false) : (ls.any fun y => y.line != l.line && P y) = ls.any P := by
  rw [Bool.eq_iff_iff, List.any_eq_true, List.any_eq_true]
  refine exists_congr fun y => and_congr_right fun hy => ?_
  rw [Bool.and_eq_true, and_iff_right_iff_imp, bne_iff_ne]
  rintro hp hl
  rw [hu y hy hl, h] at hp
  cases hp

section
variable {p : Part} {e x : HoldEntry} {l : HoldLine} (hs : p.writer.state = .running) (hd : draining p = false)
  (he : p.hold.queue.find? (fun x => x.state == .waitSpace) = some e) (hl : e.lines.find? HoldLine.isHeld = some l)
include hs hd he hl

/-- An offer whose entry is gone: what the offer has left stands. -/
theorem heldStep_left (hx : holdEntry (offerImage p e.req.tag l.line l.image) e.req.tag = none) :
    heldStep p = some (offerImage p e.req.tag l.line l.image) := by
  simp [heldStep, hs, hd, he, hl, hx]

/-- An offer that leaves an image in the entry. -/
theorem heldStep_more (hx : holdEntry (offerImage p e.req.tag l.line l.image) e.req.tag = some x)
    (hm : x.lines.any HoldLine.isHeld = true) : heldStep p = some (offerImage p e.req.tag l.line l.image) := by
  simp only [heldStep, hs, beq_self_eq_true, hd, Bool.not_false, Bool.and_self, if_true, he, hl, hx, hm]

/-- An offer that leaves none: the entry goes on. -/
theorem heldStep_emptied (hx : holdEntry (offerImage p e.req.tag l.line l.image) e.req.tag = some x)
    (hm : x.lines.any HoldLine.isHeld = false) :
    heldStep p = some (settleEntry (offerImage p e.req.tag l.line l.image) e.req.tag) := by
  simp only [heldStep, hs, beq_self_eq_true, hd, Bool.not_false, Bool.and_self, if_true, he, hl, hx, hm,
    Bool.false_eq_true, if_false]

end

/-- Changing nothing of an entry changes nothing. -/
theorem modHold_id {p : Part} {e : HoldEntry} {f : HoldEntry → HoldEntry}
    (hu : ∀ x ∈ p.hold.queue, x.req.tag = e.req.tag → x = e) (h : f e = e) : modHold p e.req.tag f = p := by
  rw [modHold_congr (g := fun x => x) hu h, modHold_eq]
  simp

section
variable {p q : Part} {e : HoldEntry} {l : HoldLine} {image : List Byte} (hs : p.writer.state = .running)
  (hd : p.command.busy ≠ .softReset) (he : p.hold.queue.find? (fun x => x.state == .waitSpace) = some e)
  (hl : e.lines.find? HoldLine.isHeld = some l) (himage : l.sub = .held image)
  (hu : ∀ x ∈ p.hold.queue, x.req.tag = e.req.tag → x = e) (hul : ∀ y ∈ e.lines, y.line = l.line → y = l)
include hs hd he hl himage hu hul

/-- A HELD image placed: its line is PLACED, the record counts, and an entry with no image left goes on (R64). -/
theorem heldStep_placed {n : Seq} (hp : place p (undoRequest e l.line image) = (q, some n))
    (hn : p.writer.frontier < n) : heldStep p =
      some (modHold (recordCounted q e l.line n l.untracked) e.req.tag fun x => { withSub l.line (.placed n) x with
        state := if e.lines.any (fun y => y.line != l.line && y.isHeld) then .waitSpace
          else if e.lines.any HoldLine.isPending then .copying else .recording }) := by
  have hb := place_besides hp
  simp only [besidesPlacement, Prod.mk.injEq] at hb
  obtain ⟨⟨-, -, -, hhold, -⟩, ⟨-, -, -, hfrontier, -⟩, -⟩ := hb
  have hd' : draining p = false := by simpa [draining] using hd
  have hstate : e.state = .waitSpace := by simpa using List.find?_some he
  have hentry : holdEntry p e.req.tag = some e := holdEntry_unique (List.mem_of_find?_eq_some he) hu
  have hmem : l ∈ e.lines := List.mem_of_find?_eq_some hl
  have hloose : l.untracked = e.lines.any fun y => y.line == l.line && y.untracked := (any_atLine hmem hul _).symm
  have hpending : (withSub l.line (.placed n) e).lines.any HoldLine.isPending = e.lines.any HoldLine.isPending := by
    rw [any_withSub e fun y => by simp [HoldLine.isPending]]
    exact any_besideLine hul (by simp [HoldLine.isPending, himage])
  have hheld := any_withSub (P := HoldLine.isHeld) (line := l.line) (sub := .placed n) e fun _ => rfl
  have hoffer : offerImage p e.req.tag l.line l.image =
      modHold (recordCounted q e l.line n l.untracked) e.req.tag (withSub l.line (.placed n)) := by
    have hi : l.image = image := by simp [HoldLine.image, himage]
    rw [hi, offerImage_placed hentry hp, lineRecorded_eq q e l.line n hloose, hfrontier, if_neg (Nat.not_le.mpr hn)]
  have hcounted : (recordCounted q e l.line n l.untracked).hold = p.hold := hhold
  have hx : holdEntry (offerImage p e.req.tag l.line l.image) e.req.tag = some (withSub l.line (.placed n) e) := by
    rw [hoffer, holdEntry_modHold _ _ (f := withSub l.line (.placed n)) fun _ => rfl, holdEntry, hcounted,
      ← holdEntry, hentry]
    rfl
  have hu' : ∀ x ∈ (recordCounted q e l.line n l.untracked).hold.queue, x.req.tag = e.req.tag → x = e := by
    rwa [hcounted]
  rw [← hheld]
  cases hm : (withSub l.line (.placed n) e).lines.any HoldLine.isHeld with
  | true =>
    rw [heldStep_more hs hd' he hl hx hm, hoffer]
    refine congrArg some (modHold_congr hu' ?_)
    simp [withSub, hstate]
  | false =>
    rw [heldStep_emptied hs hd' he hl hx hm, settleEntry_rests hx (.inl (by simpa using hm)), hoffer, rested,
      modHold_modHold _ _ (f := withSub l.line (.placed n)) _ fun _ => rfl]
    refine congrArg some (modHold_congr hu' ?_)
    rw [restingState, hm, hpending]

/-- A HELD image refused: it stays HELD, and the writer is SUSPENDED with WRITER_SUSPENDED (R64, R95). -/
theorem heldStep_refused (hf : e.failed = false) (hp : place p (undoRequest e l.line image) = (q, none))
    (hq : q.writer.state = .running) : heldStep p = some { q with
      writer := { q.writer with state := .suspended },
      events := { q.events with flags := q.events.flags ||| eventMask .writerSuspended } } := by
  have hb := refused_besides hp (.inl hq)
  simp only [besidesPlacement, Prod.mk.injEq] at hb
  obtain ⟨⟨-, -, -, hhold, -⟩, -⟩ := hb
  have hd' : draining p = false := by simpa [draining] using hd
  have hstate : e.state = .waitSpace := by simpa using List.find?_some he
  have hentry : holdEntry p e.req.tag = some e := holdEntry_unique (List.mem_of_find?_eq_some he) hu
  have hmem : l ∈ e.lines := List.mem_of_find?_eq_some hl
  have hwith : withheld p e = false := by
    rw [Bool.eq_false_iff, Ne, withheld_iff]
    rintro ⟨x, -, -, -, -, -, h⟩
    rw [hstate] at h
    cases h
  have hsame : withSub l.line (.held image) e = e := by
    have hlines : (e.lines.map fun y => if y.line = l.line then { y with sub := .held image } else y) = e.lines := by
      rw [List.map_congr_left (g := fun y => y) fun y hy => ?_, List.map_id']
      by_cases h : y.line = l.line
      · rw [if_pos h, hul y hy h, ← himage]
      · rw [if_neg h]
    rw [withSub, hlines]
  have hoffer : offerImage p e.req.tag l.line l.image = { q with
      writer := { q.writer with state := .suspended },
      events := { q.events with flags := q.events.flags ||| eventMask .writerSuspended } } := by
    have hi : l.image = image := by simp [HoldLine.image, himage]
    rw [hi, (offerImage_inService hentry hp hd (.inl hq) rfl).1 hf hwith, if_pos hq]
    refine modHold_id ?_ hsame
    show ∀ x ∈ q.hold.queue, _
    rwa [hhold]
  rw [← hoffer]
  refine heldStep_more hs hd' he hl (x := e) ?_ (List.any_eq_true.mpr ⟨l, hmem, List.find?_some hl⟩)
  rw [hoffer, ← hentry]
  exact congrArg (List.find? _ ·.queue) hhold

end

/-! ### Settling (log 9) -/

/-- Settles O19: each internal event by its own lemmas, their order and `settle` by definition. -/
theorem spaceIsHandedOut : Obligations.SpaceIsHandedOut := by
  refine ⟨fun p => ⟨resumeStep_eq p, ?_, ?_, ?_, ?_, ?_, commitReady_iff p, ?_, ?_, rfl⟩, fun p => ⟨rfl, rfl, Iff.rfl,
    settle_of_atRest, fun k => rfl⟩⟩
  · intro r rest hw h
    rw [waitingStep_eq_none_iff]
    rintro r' rest' hw'
    rw [hw, List.cons.injEq] at hw'
    rwa [← hw'.1]
  · intro r rest q n hw ha hb hp
    rw [waitingStep_placed hw ha hb hp]
    exact ⟨fun hk => by simp only [controlPlaced, hk]; rfl, fun hk => by simp only [controlPlaced, hk]; rfl⟩
  · exact fun r rest q hw ha hb hp => waitingStep_halted hw ha hb hp
  · intro h
    rw [heldStep_eq_none_iff]
    exact h.imp_right fun h => .inl (by simp [draining, h])
  · rintro e l image _ _ hs hd he hl himage hf hu hul rfl rfl
    refine ⟨fun q n hp hn => ?_, fun q hp hq => heldStep_refused hs hd he hl himage hu hul hf hp hq, ?_⟩
    · rw [heldStep_placed hs hd he hl himage hu hul hp hn, modHold_eq]
      rfl
    · rintro q hq hx
      have hi : l.image = image := by simp [HoldLine.image, himage]
      rw [← hi] at hq
      subst hq
      exact heldStep_left hs (by simpa [draining] using hd) he hl hx
  · intro h
    rw [commitAskStep, Option.map_eq_none_iff, List.find?_eq_none]
    exact fun c _ => by simp [h c]
  · rintro c _ m _ q hc rfl hm hl rfl
    have hask : commitAskStep p = some (commitAsks p c) := by
      have hc' : allChannels.find? (commitReady p) = some c := hc
      rw [commitAskStep, hc', Option.map_some]
    rw [hask]
    refine ⟨fun n hp => ?_, fun hp => ?_, fun hp hnone => ?_⟩
    · have hb := place_besides hp
      simp only [besidesPlacement, Prod.mk.injEq] at hb
      obtain ⟨⟨-, -, -, -, -, hchannels, -⟩, -⟩ := hb
      have hmq : (chan q c).marker = some m := by rw [chan, hchannels]; exact hm
      rw [commitAsks_placed hl hp, commitPlaced, modChan, hmq]
      rfl
    · have hun : commitUnplaced p c = true := by
        obtain ⟨-, hmarker, -⟩ := (commitReady_iff p c).mp (List.find?_some hc)
        exact (commitUnplaced_iff p c).mpr hmarker
      rw [commitAsks_refused hl hp, if_pos hun]
      rfl
    · have hun : commitUnplaced q c = false := by simp [commitUnplaced, hnone]
      rw [commitAsks_refused hl hp, if_neg (by simp [hun])]

end Sys2Proof.Proofs

/-! A placed record's header read back, and the test of a record, condition by condition (R25, R73, R74, R79, R80, R86). -/

namespace Sys2Proof.Proofs

open Sys2Proof.Machine Sys2Proof.Laws

/-! ### Words and sums (R73) -/

/-- A value with eight more bits below it. -/
theorem toNat_append_byte {n : Nat} (x : BitVec n) (b : Byte) : (x ++ b).toNat = 2 ^ 8 * x.toNat + b.toNat := by
  rw [BitVec.toNat_append, ← Nat.shiftLeft_add_eq_or_of_lt b.isLt, Nat.shiftLeft_eq, Nat.mul_comm]

/-- A word lies with its least significant byte at the lowest address (R25, R73). -/
theorem wordAt_toNat (bs : List Byte) (k : Nat) : (wordAt bs k).toNat =
    (bs.getD (4 * k) 0).toNat + 2 ^ 8 * (bs.getD (4 * k + 1) 0).toNat + 2 ^ 16 * (bs.getD (4 * k + 2) 0).toNat +
      2 ^ 24 * (bs.getD (4 * k + 3) 0).toNat := by
  rw [wordAt, wordOfBytes, toNat_append_byte, toNat_append_byte, toNat_append_byte]
  omega

/-- The sum of words in one order or the other. -/
theorem sumWords_append (ws vs : List Word) : sumWords (ws ++ vs) = sumWords ws + sumWords vs := by
  induction ws with
  | nil => simp [sumWords]
  | cons w ws ih => rw [List.cons_append, sumWords, sumWords, ih, BitVec.add_assoc]

theorem sumWords_eq_foldl (ws : List Word) : sumWords ws = ws.foldl (· + ·) 0 := by
  have go : ∀ (ws : List Word) (a : Word), ws.foldl (· + ·) a = a + sumWords ws := by
    intro ws
    induction ws with
    | nil => simp [sumWords]
    | cons w ws ih => intro a; rw [List.foldl_cons, ih, sumWords, BitVec.add_assoc]
  simp [go]

/-- Condition 5: the check word is the complement of the sum of all it covers (R73, R86). -/
theorem checkMatches_iff (identity : Word) (h : HeaderSlot) (payload : List Word) : checkMatches identity h payload = true ↔
    h.w7 = ~~~ (h.w0 + h.w1 + h.w2 + h.w3 + h.w4 + h.w5 + h.w6 + payload.foldl (· + ·) 0 + identity) := by
  have hcovered : sumWords h.covered = h.w0 + h.w1 + h.w2 + h.w3 + h.w4 + h.w5 + h.w6 := by
    simp [HeaderSlot.covered, sumWords, BitVec.add_assoc]
  have hid : sumWords [identity] = identity := by simp [sumWords]
  rw [checkMatches, beq_iff_eq, checkWord, coveredWords, sumWords_append, sumWords_append, hcovered, hid,
    sumWords_eq_foldl payload]

/-! ### The bytes of a header slot -/

theorem length_headerBytes (h : HeaderSlot) : h.bytes.length = 32 := by
  rw [HeaderSlot.bytes, length_flatten]
  rfl

/-- The eight words of the slot, in order. -/
theorem words_headerBytes (h : HeaderSlot) :
    (List.range 8).map (wordAt h.bytes) = [h.w0, h.w1, h.w2, h.w3, h.w4, h.w5, h.w6, h.w7] := by
  have hw : (List.range 8).map (wordAt h.bytes) = [(headerOfBytes h.bytes).w0, (headerOfBytes h.bytes).w1,
      (headerOfBytes h.bytes).w2, (headerOfBytes h.bytes).w3, (headerOfBytes h.bytes).w4, (headerOfBytes h.bytes).w5,
      (headerOfBytes h.bytes).w6, (headerOfBytes h.bytes).w7] := rfl
  rw [hw, headerOfBytes_bytes]

/-! ### The fields of a placed record (R74, R79) -/

/-- The length field of a record fits its eight bits (R84). -/
theorem lengthFieldOf_lt (k : RecordKind) (rest : Nat) : lengthFieldOf k rest < 256 := by
  cases k <;> simp only [lengthFieldOf]
  case pad => split <;> omega
  all_goals decide

section
variable (back len : BitVec 8) (o f t : Bool) (c : BitVec 2) (k : BitVec 8)

theorem word0_unnamed : (word0 back len o f t c k).extractLsb' 10 2 = 0 := by
  apply BitVec.eq_of_getLsbD_eq
  intro i hi
  simp only [word0, BitVec.getLsbD_append, BitVec.getLsbD_extractLsb']
  interval_cases i <;> rfl

theorem word0_unnamed_bit : (word0 back len o f t c k).getLsbD 15 = false := by
  simp only [word0, BitVec.getLsbD_append]
  rfl

end

section
variable (identity : Word) (r : PlaceReq) (n : Seq) (len back : Nat)

theorem placedHeader_channel : (placedHeader identity r n len back).channel = r.channel := by
  rw [HeaderSlot.channel, placedHeader_w0, word0_channel]
  apply Fin.ext
  simp

theorem placedHeader_lengthField (h : len < 256) : (placedHeader identity r n len back).lengthField = len := by
  rw [HeaderSlot.lengthField, placedHeader_w0, word0_length, BitVec.toNat_ofNat]
  exact Nat.mod_eq_of_lt h

theorem placedHeader_backLink (h : back < 256) : (placedHeader identity r n len back).backLink = back := by
  rw [HeaderSlot.backLink, placedHeader_w0, word0_back, BitVec.toNat_ofNat]
  exact Nat.mod_eq_of_lt h

/-- The region index of a placed record (R74). -/
theorem placedHeader_region : (placedHeader identity r n len back).w3.extractLsb' 16 16 = r.region := by
  show (r.region ++ BitVec.ofNat 16 (n / 2 ^ 32)).extractLsb' 16 16 = r.region
  apply BitVec.eq_of_getLsbD_eq
  intro i hi
  have h16 : ¬ 16 + i < 16 := by omega
  rw [BitVec.getLsbD_extractLsb', BitVec.getLsbD_append, if_neg h16, Nat.add_sub_cancel_left, decide_eq_true hi,
    Bool.true_and]

/-- Words 4 and 5 of a placed record, by its kind (R74). -/
theorem placedHeader_w5_of_ne_undo (h : r.kind ≠ .undo) : (placedHeader identity r n len back).w5 = 0 := by
  cases hk : r.kind <;> simp_all [placedHeader, headerFields]

theorem placedHeader_w4_of_bare (h : r.kind = .torn ∨ r.kind = .pad) : (placedHeader identity r n len back).w4 = 0 := by
  rcases h with h | h <;> simp [placedHeader, headerFields, h]

theorem placedHeader_w4_of_end (h : r.kind = .commit ∨ r.kind = .abort) :
    (placedHeader identity r n len back).w4 = r.undoCount := by
  rcases h with h | h <;> simp [placedHeader, headerFields, h]

/-- The bits of word 5 above the line address are 0 (R74). -/
theorem placedHeader_w5_upper : (placedHeader identity r n len back).w5.extractLsb' 8 24 = 0 := by
  by_cases h : r.kind = .undo
  · have h5 : (placedHeader identity r n len back).w5 = (r.line.extractLsb' 32 8).zeroExtend 32 := by
      simp [placedHeader, headerFields, h]
    rw [h5]
    apply BitVec.eq_of_getLsbD_eq
    intro i hi
    simp [BitVec.getLsbD_setWidth]
  · rw [placedHeader_w5_of_ne_undo identity r n len back h]
    rfl

end

/-! ### The test of a record (R86) -/

/-- A kind code names its kind (R74). -/
theorem kindOfCode_eq_some (n : Nat) (k : RecordKind) : kindOfCode n = some k ↔ n = kindCode k := by
  unfold kindOfCode
  constructor
  · intro h
    split at h <;> cases h <;> rfl
  · rintro rfl
    cases k <;> rfl

/-- Conditions 1, 2 and 3: a kind, its length field, and room in the segment (R86). -/
theorem headerShape_iff (h : HeaderSlot) (slot slots : Nat) : headerShape h slot slots = true ↔
    ∃ k, h.kind = some k ∧ h.lengthField = lengthFieldOf k (slots - slot) ∧
      slot + recordSlots k (slots - slot) ≤ slots := by
  unfold headerShape
  cases h.kind <;> simp

/-- The test of a record, condition by condition (R86). -/
theorem recordValid_iff (identity : Word) (h : HeaderSlot) (image : List Byte) (slot slots : Nat) (n : Seq) :
    recordValid identity h image slot slots n = true ↔ headerShape h slot slots = true ∧ h.seq = n ∧
      checkMatches identity h (if h.kind = some .undo then payloadWords image else []) = true := by
  unfold recordValid
  rw [Bool.and_eq_true, Bool.and_eq_true, beq_iff_eq, and_assoc]
  cases h.kind with
  | none => simp
  | some k => cases k <;> simp

/-- A placed record passes the test where it was placed (R79, R86). -/
theorem placedHeader_valid (identity : Word) (r : PlaceReq) {n : Seq} {back slot slots : Nat} (hn : n < 2 ^ 48)
    (hfits : slot + recordSlots r.kind (slots - slot) ≤ slots) :
    recordValid identity (placedHeader identity r n (lengthFieldOf r.kind (slots - slot)) back) r.image slot slots n =
      true := by
  rw [recordValid_iff, headerShape_iff]
  refine ⟨⟨r.kind, placedHeader_kind .., placedHeader_lengthField _ _ _ _ _ (lengthFieldOf_lt ..), hfits⟩,
    placedHeader_seq _ _ _ _ hn, ?_⟩
  have hcheck := placedHeader_check identity r n (lengthFieldOf r.kind (slots - slot)) back
  rw [placedHeader_kind]
  cases hk : r.kind <;> simpa [hk] using hcheck

/-- Settles O57: the header comes back from its bytes, its fields are those of the record, and the test is R86's. -/
theorem recordReadsBack : Obligations.RecordReadsBack := by
  refine ⟨?_, fun h k => ?_, fun h => ⟨rfl, rfl, rfl, rfl, rfl, rfl, rfl, rfl, rfl⟩, fun h slot slots => ?_,
    checkMatches_iff, recordValid_iff, wordAt_toNat, fun h => ⟨length_headerBytes h, words_headerBytes h⟩, fun _ => rfl⟩
  · rintro identity r n _ back slot slots _ hn hb rfl hfits rfl
    rw [headerOfBytes_bytes]
    exact ⟨rfl, placedHeader_kind .., placedHeader_channel .., rfl, word0_torn .., word0_fault .., word0_overflowed ..,
      placedHeader_lengthField _ _ _ _ _ (lengthFieldOf_lt ..), placedHeader_backLink _ _ _ _ _ hb,
      placedHeader_seq _ _ _ _ hn, placedHeader_line _ _ _ _ _, placedHeader_region .., word0_unnamed ..,
      word0_unnamed_bit .., placedHeader_w5_upper .., rfl, placedHeader_w5_of_ne_undo _ _ _ _ _,
      placedHeader_w4_of_bare _ _ _ _ _, placedHeader_w4_of_end _ _ _ _ _,
      placedHeader_valid identity r hn hfits⟩
  · rw [HeaderSlot.kind, kindOfCode_eq_some]
    cases k <;> rfl
  · rw [headerShape_iff]
    refine exists_congr fun k => and_congr_right fun _ => and_congr ?_ ?_
    · cases k <;> rfl
    · cases k <;> simp only [recordSlots]
      omega

end Sys2Proof.Proofs

/-! What the statistics window, the report window and the rollback status show, register by register and field by field
(R42, R128, R131, R132, R173, R175, R185). -/

namespace Sys2Proof.Proofs

open Sys2Proof.Machine Sys2Proof.Laws

/-! ### The registers of the windows (R175) -/

section
variable (p : Part)

/-- The statistics window, from 0x41 on. -/
theorem readRegister_statistics (k : Fin 14) :
    readRegister p (BitVec.ofNat 7 (0x41 + k)) = statRegister (chan p p.link.statSelect) k := by
  fin_cases k <;> rfl

/-- The global part of the report window, from 0x52 on. -/
theorem readRegister_report (k : Fin 11) : readRegister p (BitVec.ofNat 7 (0x52 + k)) = reportGlobal p k := by
  fin_cases k <;> rfl

/-- A channel's part of the report window, from 0x5D on. -/
theorem readRegister_reportChannel (k : Fin 8) :
    readRegister p (BitVec.ofNat 7 (0x5D + k)) = reportChannel p p.link.reportSelect k := by
  fin_cases k <;> rfl

/-- The rollback status, from 0x65 on. -/
theorem readRegister_rollback (k : Fin 3) : readRegister p (BitVec.ofNat 7 (0x65 + k)) = rollbackRegister p k := by
  fin_cases k <;> rfl

theorem readRegister_recoveryStatus : readRegister p 0x50 = recoveryStatus p := rfl

/-- The registers of the statistics window that hold one value each (R42). -/
theorem statistics_values (ch : Channel) (h : ch = chan p p.link.statSelect) :
    ([0x41, 0x42, 0x43, 0x44, 0x45, 0x46, 0x48, 0x49, 0x4A, 0x4B, 0x4C, 0x4D, 0x4E] : List (BitVec 7)).map (readRegister p) =
      [ch.journaledWrites, ch.records, ch.trackerHits, ch.untrackedSaves, ch.holdExpiries, ch.summary.epoch,
        ch.summary.journaledWrites, ch.summary.saves, ch.summary.trackerHits, ch.summary.untrackedSaves,
        ch.summary.holdExpiries, ch.committed, ch.aborted] := by
  subst h
  rfl

end

/-! ### The fields (R175, log 46, log 48) -/

/-- A yes-or-no field (log 48). -/
theorem ofNat_bit (b : Bool) : BitVec.ofNat 1 (bit b) = if b then 1 else 0 := by
  cases b <;> rfl

/-- A present field (log 48). -/
theorem presence_fst (o : Option Nat) : (presence o).1 = bit o.isSome := by
  cases o <;> rfl

/-- What is absent shows as 0 (log 46). -/
theorem presence_snd (o : Option Nat) : (presence o).2 = o.getD 0 := by
  cases o <;> rfl

/-- The low bits of a first field that the question cuts off (log 19). -/
theorem packed_low (w v len : Nat) (fs : List (Nat × Nat)) (hlen : len ≤ w) (hw : w ≤ 32) :
    (packed ((w, v) :: fs)).extractLsb' 0 len = BitVec.ofNat len v := by
  apply BitVec.eq_of_getLsbD_eq
  intro i hi
  have h32 : i < 32 := by omega
  have hiw : i < w := by omega
  rw [BitVec.getLsbD_extractLsb', packed, BitVec.getLsbD_ofNat, BitVec.getLsbD_ofNat, packFields, testBit_pack]
  simp [hi, h32, hiw]

/-- Five flags of one bit each, from bit 0 upward. -/
theorem packed_flags (a t f o : Bool) :
    (packed [(1, 1), (1, bit a), (1, bit t), (1, bit f), (1, bit o)]).extractLsb' 0 5 =
      (if o then 1#1 else 0) ++ (if f then 1#1 else 0) ++ (if t then 1#1 else 0) ++ (if a then 1#1 else 0) ++ 1#1 := by
  revert a t f o
  decide

theorem outcome_of_code (o : EpochOutcome) :
    ([.none, .committed, .aborted] : List EpochOutcome)[codeOfOutcome o % 4]? = some o := by
  cases o <;> rfl

theorem recovery_of_code (r : RecoveryState) :
    ([.unrecovered, .scanning, .restoring, .rebasing, .ready, .failed] :
      List RecoveryState)[codeOfRecovery r % 8]? = some r := by
  cases r <;> rfl

theorem failure_of_code (f : FailureReason) :
    ([.none, .readFault, .noJournal, .journalInconsistent, .restoreFault, .sequenceExhausted, .rebaseFault, .frozen] :
      List FailureReason)[codeOfFailure f % 8]? = some f := by
  cases f <;> rfl

theorem reportKind_of_code (k : ReportKind) :
    ([.none, .recover, .format] : List ReportKind)[codeOfReport k % 4]? = some k := by
  cases k <;> rfl

theorem reportOutcome_of_code (o : ReportOutcome) :
    ([.none, .done, .failed] : List ReportOutcome)[codeOfReportOutcome o % 4]? = some o := by
  cases o <;> rfl

/-- The line where a failure arose, 0 when absent (R185, log 46). -/
theorem reportLine_eq (p : Part) : reportLine p = (p.restore.report.faultLine.map (·.toNat)).getD 0 := by
  unfold reportLine
  cases p.restore.report.faultLine <;> rfl

/-! ### The registers of several fields -/

section
variable (p : Part)

/-- The summary of the last epoch (R42). -/
theorem summary_fields (ch : Channel) :
    ([.none, .committed, .aborted] : List EpochOutcome)[((statRegister ch 6).extractLsb' 0 2).toNat]? =
      some ch.summary.outcome ∧
    (statRegister ch 6).extractLsb' 2 1 = (if ch.summary.torn then 1 else 0) ∧
    (statRegister ch 6).extractLsb' 3 1 = (if ch.summary.overflow then 1 else 0) ∧
    (statRegister ch 6).extractLsb' 4 1 = (if ch.summary.faulted then 1 else 0) ∧
    (statRegister ch 6).extractLsb' 5 27 = 0 := by
  simp [statRegister, packed_head, packed_tail, packed_nil, ofNat_bit, outcome_of_code]

/-- The state of recovery and the segment it works on (R128). -/
theorem recoveryStatus_fields :
    ([.unrecovered, .scanning, .restoring, .rebasing, .ready, .failed] :
      List RecoveryState)[((recoveryStatus p).extractLsb' 0 3).toNat]? = some p.restore.recovery ∧
    ([.none, .readFault, .noJournal, .journalInconsistent, .restoreFault, .sequenceExhausted, .rebaseFault, .frozen] :
      List FailureReason)[((recoveryStatus p).extractLsb' 3 3).toNat]? = some p.restore.lastFailure ∧
    (recoveryStatus p).extractLsb' 6 1 = (if (recoverySegment p).isSome then 1 else 0) ∧
    ((recoveryStatus p).extractLsb' 7 6).toNat = (recoverySegment p).getD 0 % 64 ∧
    (recoveryStatus p).extractLsb' 13 19 = 0 := by
  simp [recoveryStatus, packed_head, packed_tail, packed_nil, presence_fst, presence_snd, ofNat_bit, recovery_of_code,
    failure_of_code]

/-- Kind, outcome and reason of the report (R132). -/
theorem report_kind_fields :
    ([.none, .recover, .format] : List ReportKind)[((reportGlobal p 0).extractLsb' 0 2).toNat]? =
      some p.restore.report.kind ∧
    ([.none, .done, .failed] : List ReportOutcome)[((reportGlobal p 0).extractLsb' 2 2).toNat]? =
      some p.restore.report.outcome ∧
    ([.none, .readFault, .noJournal, .journalInconsistent, .restoreFault, .sequenceExhausted, .rebaseFault, .frozen] :
      List FailureReason)[((reportGlobal p 0).extractLsb' 4 3).toNat]? = some p.restore.report.reason ∧
    (reportGlobal p 0).extractLsb' 7 25 = 0 := by
  simp [reportGlobal, packed_head, packed_tail, packed_nil, reportKind_of_code, reportOutcome_of_code, failure_of_code]

/-- The segments where a failure arose (R185). -/
theorem report_segment_fields :
    (reportGlobal p 1).extractLsb' 0 1 = (if p.restore.report.faultSegment.isSome then 1 else 0) ∧
    ((reportGlobal p 1).extractLsb' 1 6).toNat = p.restore.report.faultSegment.getD 0 % 64 ∧
    (reportGlobal p 1).extractLsb' 7 1 = (if p.restore.report.secondSegment.isSome then 1 else 0) ∧
    ((reportGlobal p 1).extractLsb' 8 6).toNat = p.restore.report.secondSegment.getD 0 % 64 ∧
    (reportGlobal p 1).extractLsb' 14 18 = 0 := by
  simp [reportGlobal, packed_head, packed_tail, packed_nil, presence_fst, presence_snd, ofNat_bit]

/-- The headers that the scan found valid and used (R131). -/
theorem report_header_fields :
    ((reportGlobal p 6).extractLsb' 0 7).toNat = p.restore.tables.validHeaders % 128 ∧
    ((reportGlobal p 6).extractLsb' 7 7).toNat = p.restore.tables.usedHeaders % 128 ∧
    (reportGlobal p 6).extractLsb' 14 18 = 0 := by
  simp [reportGlobal, packed_head, packed_tail, packed_nil]

/-- The open epoch of a channel, of which the register shows the low 31 bits (R185, log 19). -/
theorem report_openEpoch_fields (c : Chan) (x : ChannelReport) (hx : x = getAt p.restore.report.channels c) :
    (reportChannel p c 1).extractLsb' 0 1 = (if x.openEpoch.isSome then 1 else 0) ∧
    ((reportChannel p c 1).extractLsb' 1 31).toNat = (x.openEpoch.getD 0).toNat % 2 ^ 31 := by
  subst hx
  cases h : (getAt p.restore.report.channels c).openEpoch with
  | none => simp [reportChannel, h]
  | some e => simp [reportChannel, h, packed_head, packed_tail, packed_low]

/-- Whether a TORN record was found, and the count of epochs restored (R185). -/
theorem report_torn_fields (c : Chan) (x : ChannelReport) (hx : x = getAt p.restore.report.channels c) :
    (reportChannel p c 2).extractLsb' 0 1 = (if x.tornFound then 1 else 0) ∧
    ((reportChannel p c 2).extractLsb' 1 31).toNat = x.epochsRestored % 2 ^ 31 := by
  subst hx
  simp [reportChannel, packed_head, packed_tail, ofNat_bit]

/-- The flags of a channel's last end record (R185). -/
theorem report_lastEnd_fields (c : Chan) (l : Option EndRecord) (hl : l = (getAt p.restore.tables.channels c).lastEnd) :
    (l = none → reportChannel p c 5 = 0) ∧
    (∀ e, l = some e → (reportChannel p c 5).extractLsb' 0 5 = (if e.overflowed then 1#1 else 0) ++
        (if e.fault then 1#1 else 0) ++ (if e.torn then 1#1 else 0) ++ (if e.isAbort then 1#1 else 0) ++ 1#1 ∧
      (reportChannel p c 5).extractLsb' 5 27 = 0) := by
  subst hl
  refine ⟨fun h => by simp [reportChannel, h], fun e h => ?_⟩
  simp only [reportChannel, h]
  exact ⟨packed_flags .., by simp [packed_tail, packed_nil]⟩

/-- The registers of a channel's report that hold one value each (R185, log 46). -/
theorem report_channel_values (x : ChannelReport) (l : Option EndRecord)
    (hx : x = getAt p.restore.report.channels p.link.reportSelect)
    (hl : l = (getAt p.restore.tables.channels p.link.reportSelect).lastEnd) :
    ([0x5D, 0x60, 0x61, 0x63, 0x64] : List (BitVec 7)).map (readRegister p) =
      [x.resolved, BitVec.ofNat 32 x.restored, BitVec.ofNat 32 x.skipped, (l.map (·.epoch)).getD 0,
        (l.map (·.undoCount)).getD 0] := by
  have window : ([0x5D, 0x60, 0x61, 0x63, 0x64] : List (BitVec 7)).map (readRegister p) =
      ([0, 3, 4, 6, 7] : List Nat).map (reportChannel p p.link.reportSelect) := rfl
  rw [window]
  subst hx
  cases l with
  | none => simp [reportChannel, shown, ← hl]
  | some e => simp [reportChannel, shown, ← hl]

/-- The registers of the report's global part that hold a value in two parts (R185, log 46). -/
theorem report_pair_values :
    ([0x54, 0x55, 0x56, 0x57, 0x59, 0x5A, 0x5B, 0x5C] : List (BitVec 7)).map (readRegister p) =
      [BitVec.ofNat 32 (p.restore.report.faultSeq.getD 0),
        BitVec.ofNat 32 (p.restore.report.faultSeq.getD 0 / 2 ^ 32),
        BitVec.ofNat 32 ((p.restore.report.faultLine.map (·.toNat)).getD 0),
        BitVec.ofNat 32 ((p.restore.report.faultLine.map (·.toNat)).getD 0 / 2 ^ 32),
        BitVec.ofNat 32 p.restore.tables.highestSeq, BitVec.ofNat 32 (p.restore.tables.highestSeq / 2 ^ 32),
        BitVec.ofNat 32 p.restore.report.newFirst, BitVec.ofNat 32 (p.restore.report.newFirst / 2 ^ 32)] := by
  rw [← reportLine_eq]
  rfl

/-- The channel and the cursor of the rollback in progress (R185). -/
theorem rollback_fields :
    (rollbackRegister p 0).extractLsb' 0 1 = (if p.restore.status.channel.isSome then 1 else 0) ∧
    ((rollbackRegister p 0).extractLsb' 1 2).toNat = (p.restore.status.channel.map (·.val)).getD 0 ∧
    (rollbackRegister p 0).extractLsb' 3 1 = (if p.restore.status.cursorSegment.isSome then 1 else 0) ∧
    ((rollbackRegister p 0).extractLsb' 4 6).toNat = p.restore.status.cursorSegment.getD 0 % 64 ∧
    (rollbackRegister p 0).extractLsb' 10 22 = 0 := by
  have hchannel : (p.restore.status.channel.map (·.val)).getD 0 < 4 := by
    cases p.restore.status.channel with
    | none => decide
    | some c => exact c.isLt
  simp [rollbackRegister, packed_head, packed_tail, packed_nil, presence_fst, presence_snd, ofNat_bit,
    Nat.mod_eq_of_lt hchannel]

end

/-- The current segment is that of the header, record or line at which recovery is (R128, log 37). -/
theorem recoverySegment_eq (p : Part) : recoverySegment p = match p.restore.stage with
    | .idle => none
    | .scanHeader a | .scanSlot a _ _ | .scanRecord a _ _ _ => some a
    | .backHeader a _ _ | .backPayload a _ _ _ _ | .backWrite a _ _ _ => some a
    | .formatHeader a | .activeHeader a => some a := by
  unfold recoverySegment
  cases p.restore.stage <;> rfl

/-- Settles O56, window by window. -/
theorem windowsShowState : Obligations.WindowsShowState := by
  intro p ch rp x l yes hch hrp hx hl hyes
  subst hyes hrp
  refine ⟨statistics_values p ch hch, fun v hv => ?_, fun v hv => ?_, recoverySegment_eq p, fun v hv => ?_, fun v hv => ?_,
    report_pair_values p, fun v hv => ?_, report_channel_values p x l hx hl, fun v hv => ?_, fun v hv => ?_,
    fun v hv => ?_, fun v hv => ?_, readRegister_rollback p 1, readRegister_rollback p 2⟩
  · rw [hv.trans (readRegister_statistics p 6), ← hch]
    exact summary_fields ch
  · rw [hv.trans (readRegister_recoveryStatus p)]
    exact recoveryStatus_fields p
  · rw [hv.trans (readRegister_report p 0)]
    exact report_kind_fields p
  · rw [hv.trans (readRegister_report p 1)]
    exact report_segment_fields p
  · rw [hv.trans (readRegister_report p 6)]
    exact report_header_fields p
  · rw [hv.trans (readRegister_reportChannel p 1)]
    exact report_openEpoch_fields p _ x hx
  · rw [hv.trans (readRegister_reportChannel p 2)]
    exact report_torn_fields p _ x hx
  · rw [hv.trans (readRegister_reportChannel p 5)]
    exact report_lastEnd_fields p _ l hl
  · rw [hv.trans (readRegister_rollback p 0)]
    exact rollback_fields p

end Sys2Proof.Proofs

/-! The invariant of the part, kept by the rows of the port, of memory's answers and of the deadlines, and so by every step
(R46, R51, R109, R150). -/

namespace Sys2Proof.Proofs

open Sys2Proof.Machine Sys2Proof.Laws

section
variable {p : Part} (h : p.Sound)
include h

/-! ### The port, the classifier and the arbiter -/

/-- The port takes a request only with room in the intake queue (R145, R150). -/
theorem requestPresented_sound (r : Request) : (requestPresented p r).Sound := by
  unfold requestPresented
  split
  next hopen =>
    have hroom : p.port.intake.length < Config.intakeDepth := by
      simp only [portOpen, Bool.and_eq_true, decide_eq_true_eq] at hopen
      exact hopen.1
    split
    · exact h
    · split
      · exact h
      · split
        · exact h
        · exact ⟨⟨by simpa [acceptRequest] using hroom, h.1.2⟩, h.2⟩
  · exact h

/-- What stands in the intake queue may be replaced by no more requests than there were. -/
theorem sound_of_intake {l : List IntakeEntry} (hl : l.length ≤ p.port.intake.length) :
    ({ p with port := { p.port with intake := l } } : Part).Sound :=
  ⟨⟨hl.trans h.1.1, h.1.2⟩, h.2⟩

/-- A head that the hold unit cannot take stays where it was (R56). -/
theorem holdOrWait_sound {rest : List IntakeEntry} (r : Request) (k : Classification)
    (hl : rest.length < p.port.intake.length) : (holdOrWait (dequeued p rest) rest r k).Sound := by
  have hq : (dequeued p rest).Sound := sound_of_intake h hl.le
  unfold holdOrWait
  dsimp only
  split
  next q htake =>
    have hcounted : Keeps (dequeued p rest) (countedAtClassify (dequeued p rest) k) := by
      unfold countedAtClassify
      split
      · exact Keeps.countJournaled (Keeps.refl _) _
      · exact Keeps.refl _
    exact Sound.settle ((Keeps.holdTake hcounted htake).sound hq)
  next =>
    unfold countedAtClassify
    split <;> exact sound_of_intake h (l := { req := r, cls := some k } :: rest) hl

/-- The classifier takes the head out of the intake queue, or leaves it there classified (R5). -/
theorem classifyHead_sound : (classifyHead p).Sound := by
  unfold classifyHead
  split
  · exact h
  next x rest hintake =>
    have hl : rest.length < p.port.intake.length := by rw [hintake]; exact Nat.lt_succ_self _
    have hq : (dequeued p rest).Sound := sound_of_intake h hl.le
    split
    · exact h
    · dsimp only
      split
      · exact hq
      · exact hq
      · exact hq
      next c _ =>
        show (candidateTaken (dequeued p rest) x.req c).Sound
        unfold candidateTaken
        split
        · exact Sound.settle ((Keeps.markerChecked (Keeps.refl _) _ _).sound hq)
        · exact hq
      next k _ => exact holdOrWait_sound h x.req k hl

/-- A turn moves a request from the waiting ones to the issued ones (R155). -/
theorem turnTaken_sound (t : DTag) : (turnTaken p t).Sound := by
  unfold turnTaken
  split <;> exact h

/-! ### Answers from memory -/

theorem ptAnswered_sound (r : DownReq) (code : RespCode) (data : List Byte) : (ptAnswered p r code data).Sound := by
  unfold ptAnswered
  split
  · exact h
  · exact Sound.settle h
  · exact Sound.settle ((Keeps.heldAnswered (Keeps.refl _) _ _ _).sound h)
  all_goals exact h

theorem ptDone_sound (t : DTag) (data : List Byte) : (ptDone p t data).Sound := by
  unfold ptDone
  split
  · exact h
  · split
    · exact ptAnswered_sound (Sound.freeTag h t) _ _ _
    · exact h

theorem ptFailed_sound (t : DTag) : (ptFailed p t).Sound := by
  unfold ptFailed
  split
  · exact h
  · split
    · exact ptAnswered_sound (Sound.raiseEvent (Sound.freeTag h t) _) _ _ _
    · exact h

theorem walkHeaderRow_sound (t : DTag) (a : ReadAnswer) : (walkHeaderRow p t a).Sound := by
  unfold walkHeaderRow
  split
  · exact h
  · split
    · exact Sound.settle ((Keeps.rollbackHeaderAnswered (Keeps.refl _) _ _).sound (Sound.freeTag h t))
    all_goals exact h

theorem walkPayloadRow_sound (t : DTag) (a : ReadAnswer) : (walkPayloadRow p t a).Sound := by
  unfold walkPayloadRow
  split
  · exact h
  · split
    · exact Sound.settle ((Keeps.rollbackPayloadAnswered (Keeps.refl _) _ _ _).sound (Sound.freeTag h t))
    all_goals exact h

theorem walkRestoreRow_sound (t : DTag) (a : WriteAnswer) : (walkRestoreRow p t a).Sound := by
  unfold walkRestoreRow
  split
  · exact h
  · split
    · exact Sound.settle ((Keeps.rollbackRestoreAnswered (Keeps.refl _) _ _ _).sound (Sound.freeTag h t))
    all_goals exact h

theorem scanRow_sound (t : DTag) (a : ReadAnswer) : (scanRow p t a).Sound := by
  unfold scanRow
  split
  · exact h
  · split
    · exact Sound.scanAnswered (Sound.freeTag h t) _
    · exact Sound.scanAnswered (Sound.freeTag h t) _
    · exact Sound.scanPieceAnswered (Sound.freeTag h t) _ _ _ _ _ _
    all_goals exact h

theorem backReadRow_sound (t : DTag) (a : ReadAnswer) : (backReadRow p t a).Sound := by
  unfold backReadRow
  split
  · exact h
  · split
    · exact Sound.backHeaderAnswered (Sound.freeTag h t) _ _ _ _
    · exact Sound.backPieces (Sound.freeTag h t) _ _ _ _ _
    all_goals exact h

/-- A write of recovery is answered by what its stage picks. -/
theorem recoveryWriteRow_sound (t : DTag) {pick : RecoveryStage → Option (Part → Part)}
    (hpick : ∀ st go, pick st = some go → (go (freeTag p t)).Sound) : (recoveryWriteRow p t pick).Sound := by
  unfold recoveryWriteRow
  split
  · exact h
  · split
    next hgo => exact hpick _ _ hgo
    · exact h

theorem backWriteRow_sound (t : DTag) (a : WriteAnswer) : (backWriteRow p t a).Sound := by
  refine recoveryWriteRow_sound h t fun st go hgo => ?_
  cases st <;> cases hgo
  exact Sound.backWriteAnswered (Sound.freeTag h t) _ _ _ _ _

theorem formatRow_sound (t : DTag) (a : WriteAnswer) : (formatRow p t a).Sound := by
  refine recoveryWriteRow_sound h t fun st go hgo => ?_
  cases st <;> cases hgo
  exact Sound.formatAnswered (Sound.freeTag h t) _ _

theorem activeRow_sound (t : DTag) (a : WriteAnswer) : (activeRow p t a).Sound := by
  refine recoveryWriteRow_sound h t fun st go hgo => ?_
  cases st <;> cases hgo
  exact Sound.activeAnswered (Sound.freeTag h t) _ _

/-! ### Deadlines -/

theorem holdExpiryRow_sound (tag : Tag) : (holdExpiryRow p tag).Sound := by
  unfold holdExpiryRow
  split
  · exact h
  · split
    · exact h
    · exact Sound.settle ((Keeps.expire (Keeps.refl (reachTime p _)) _).sound h)

theorem commitExpiryRow_sound (c : Chan) : (commitExpiryRow p c).Sound := by
  unfold commitExpiryRow
  split
  · exact h
  · exact Sound.settle ((Keeps.giveUp (Keeps.refl (reachTime p _)) _).sound h)

end

/-! ### Every step -/

/-- The next state of a row is sound when the part that the row answers is. -/
theorem sound_of_next {q : Part} {w : List Instr} {t : State}
    (ht : (.next ⟨q, w⟩ : Host.Outcome State Fault Refusal) = .next t) (hq : q.Sound) : t.part.Sound := by
  cases ht
  exact hq

/-- Every command keeps the invariant. -/
theorem exec_sound {s t : State} (h : s.part.Sound) (i : Instr) (ht : exec i s = .next t) : t.part.Sound := by
  cases i with
  | powerOnReset => exact sound_of_next ht (Sound.hardReset _)
  | pinReset => exact sound_of_next ht (Sound.hardReset _)
  | pfailAssertion =>
    refine sound_of_next ht (Sound.takeFreeze ?_)
    exact h
  | pfailNegation =>
    refine sound_of_next ht ?_
    exact h
  | upstreamRequest r => exact sound_of_next ht (requestPresented_sound h r)
  | classifyRequest => exact sound_of_next ht (classifyHead_sound h)
  | arbiterTurn t => exact sound_of_next ht (turnTaken_sound h t)
  | ptAnswerDone t data => exact sound_of_next ht (ptDone_sound h t data)
  | ptAnswerFailed t => exact sound_of_next ht (ptFailed_sound h t)
  | copyReadDone t data =>
    refine sound_of_next ht ?_
    dsimp only
    split
    · exact h
    · exact Sound.settle ((Keeps.copyDone (Keeps.refl _) _ _).sound (Sound.freeTag h t))
  | copyReadFailed t =>
    refine sound_of_next ht ?_
    dsimp only
    split
    · exact h
    · exact Sound.settle ((Keeps.copyFailed (Keeps.refl _) _).sound (Sound.freeTag h t))
  | recordWriteDone t =>
    refine sound_of_next ht ?_
    dsimp only
    split
    · exact h
    · exact Sound.settle ((Keeps.journalWriteDone (Keeps.refl _) _).sound (Sound.freeTag h t))
  | recordWriteFailed t =>
    refine sound_of_next ht ?_
    dsimp only
    split
    · exact h
    · exact Sound.settle (Sound.journalWriteFailed (Sound.freeTag h t) _)
  | rollbackHeaderReadAnswered t a => exact sound_of_next ht (walkHeaderRow_sound h t a)
  | rollbackPayloadReadAnswered t a => exact sound_of_next ht (walkPayloadRow_sound h t a)
  | rollbackRestoreWriteAnswered t a => exact sound_of_next ht (walkRestoreRow_sound h t a)
  | scanReadAnswered t a => exact sound_of_next ht (scanRow_sound h t a)
  | recoveryRestoreReadAnswered t a => exact sound_of_next ht (backReadRow_sound h t a)
  | recoveryRestoreWriteAnswered t a => exact sound_of_next ht (backWriteRow_sound h t a)
  | formatHeaderWriteAnswered t a => exact sound_of_next ht (formatRow_sound h t a)
  | rebaseHeaderWriteAnswered t a => exact sound_of_next ht (activeRow_sound h t a)
  | staleDownstreamAnswer t => exact sound_of_next ht h
  | holdExpiry tag => exact sound_of_next ht (holdExpiryRow_sound h tag)
  | commitDeadlineExpiry c => exact sound_of_next ht (commitExpiryRow_sound h c)
  | recover => exact sound_of_next ht (Sound.groupTaken h _ _ (Sound.unlessBusy h _ (Sound.judgeRecover h)))
  | format => exact sound_of_next ht (Sound.groupTaken h _ _ (Sound.unlessBusy h _ (Sound.judgeFormat h)))
  | start => exact sound_of_next ht (Sound.groupTaken h _ _ (Sound.unlessBusy h _ (Sound.judgeStart h)))
  | stop => exact sound_of_next ht (Sound.groupTaken h _ _ (Sound.unlessBusy h _ (Sound.judgeStop h)))
  | returnSegment n => exact sound_of_next ht (Sound.groupTaken h _ _ (Sound.unlessBusy h _ (Sound.judgeReturn h _)))
  | softReset => exact sound_of_next ht (Sound.groupTaken h _ _ (Sound.softResetTaken h))
  | unknownCommand code => exact sound_of_next ht (Sound.groupTaken h _ _ (Sound.commandWritten h _))
  | drainEnd =>
    refine sound_of_next ht ?_
    dsimp only
    split
    · exact Sound.drainEnds _
    · exact h
  | regionEntryWrite r v => exact sound_of_next ht (Sound.groupTaken h _ _ (Sound.writeRegion h r v))
  | configGroupWrite r v => exact sound_of_next ht (Sound.groupTaken h _ _ (Sound.writeConfigGroup h r v))
  | markerCodeWrite c v => exact sound_of_next ht (Sound.groupTaken h _ _ (Sound.writeMarkerCode h c v))
  | eventClear v =>
    refine sound_of_next ht (Sound.groupTaken h _ _ ?_)
    exact h
  | eventSet v =>
    refine sound_of_next ht (Sound.groupTaken h _ _ ?_)
    exact h
  | eventEnable v =>
    refine sound_of_next ht (Sound.groupTaken h _ _ ?_)
    exact h
  | pairLoRead index =>
    refine sound_of_next ht ?_
    dsimp only
    split
    · exact Sound.pairLoSampled h _
    · exact h
  | registerWrite index v => exact sound_of_next ht (Sound.groupTaken h _ _ (Sound.writeRegister h _ _))
  | commandByte b => exact sound_of_next ht (Sound.commandByteTaken h b)
  | frameEnd trailing =>
    refine sound_of_next ht ?_
    exact h

/-- Settles O59: a step takes a command, each of which keeps the invariant, or lets time pass. -/
theorem stepKeepsSound : Obligations.StepKeepsSound := by
  rintro ⟨p, w⟩ t h ht
  cases w with
  | nil =>
    refine sound_of_next ht ?_
    exact h
  | cons i w => exact exec_sound (s := ⟨p, w⟩) h i ht

/-- Settles O60: right after reset nothing is queued and nothing is frozen. -/
theorem resetIsSound : Obligations.ResetIsSound := Sound.fresh rfl rfl rfl rfl

end Sys2Proof.Proofs

/-! Memory's answer to a held request, and the way of an entry that leaves WAIT_LINE (R47, R53, R54, R57, R67, R68). -/

namespace Sys2Proof.Proofs

open Sys2Proof.Machine Sys2Proof.Laws

/-! ### Answers to held requests (R68) -/

/-- A forwarded entry answered: the response, the entry out of the queue with the two tests due, and a write out of its
channel's outstanding count (R68). -/
theorem heldAnswered_eq {p : Part} {tag : Tag} {e : HoldEntry} (he : holdEntry p tag = some e) (code : RespCode)
    (data : List Byte) : heldAnswered p tag code data = { p with
      port := { p.port with tags := setAt p.port.tags tag false,
                            responses := p.port.responses ++ [{ tag := tag, code := code, data := data }] },
      hold := { p.hold with queue := p.hold.queue.filter (fun x => x.req.tag != tag),
                            lineTest := true, headRetry := true },
      slots := p.slots.map fun s => s.map fun k => if k.owner == some tag then { k with owner := none } else k,
      channels := if e.req.kind = .write then
          setAt p.channels e.channel { chan p e.channel with outstanding := (chan p e.channel).outstanding - 1 }
        else p.channels } := by
  simp only [heldAnswered, he]
  by_cases hw : e.req.kind = .write
  · rw [if_pos ((isWrite_iff e).mpr hw), if_pos hw]
    rfl
  · rw [if_neg (mt (isWrite_iff e).mp hw), if_neg hw]
    rfl

/-- The answer to a held request is that of its entry (R68). -/
theorem ptAnswered_held {r : DownReq} {tag : Tag} (h : r.purpose = .held tag) (p : Part) (code : RespCode)
    (data : List Byte) : ptAnswered p r code data = settle (heldAnswered p tag code data) := by
  simp only [ptAnswered, h]

/-- Settles O16: a held request is a pass-through request, and its entry is answered. -/
theorem heldEntryIsAnswered : Obligations.HeldEntryIsAnswered := by
  intro p w t r tag e data hi hp he
  have hr : r.purpose.requester = .pt := by rw [hp]; rfl
  refine ⟨?_, ?_⟩
  · rw [exec_ptAnswerDone w hi hr, ptAnswered_held hp, heldAnswered_eq (p := freeTag p t) he]
    rfl
  · rw [exec_ptAnswerFailed w hi hr, ptAnswered_held hp, heldAnswered_eq (p := raiseEvent (freeTag p t) .dataFault) he]
    rfl

/-! ### Leaving WAIT_LINE (R54) -/

/-- With nothing due before it, the test of R54 is the next internal event (log 9, log 52). -/
theorem internal_lineTest {p : Part} (hl : p.hold.lineTest = true) (hf : ∀ x ∈ p.hold.queue, forwardable p x = false)
    (hc : firstDurable p = none) (hr : rollbackStep p = none) : internal p =
      some ((p.hold.queue.find? fun x => x.state == .waitLine && olderCleared p.hold.queue x).elim
        { p with hold := { p.hold with lineTest := false } } (proceed p)) := by
  have hforward : p.hold.queue.find? (forwardable p) = none := by
    rw [List.find?_eq_none]
    exact fun x hx => by simp [hf x hx]
  simp only [internal, forwardStep, hforward, commitEndStep, hc, hr, lineTestStep, hl, if_true, Option.map_none,
    Option.none_or]
  cases p.hold.queue.find? (fun x => x.state == .waitLine && olderCleared p.hold.queue x) <;> rfl

/-- A read entry handed on, as a record (R54). -/
theorem forward_read {e : HoldEntry} (h : e.req.kind = .read) (p : Part) : forward p e = { p with
    hold := { p.hold with
      queue := p.hold.queue.map (fun x => if x.req.tag = e.req.tag then { x with state := .forwarding } else x),
      lineTest := true },
    arbiter := { p.arbiter with waiting := p.arbiter.waiting ++
      [{ purpose := .held e.req.tag, kind := .read, addr := e.req.addr, len := e.req.len, enables := e.req.enables,
         data := e.req.data }] } } := by
  have hw : e.isWrite = false := by simp [HoldEntry.isWrite, h]
  simp only [forward, hw, Bool.false_eq_true, if_false, modHold, beq_iff_eq, ← h]
  rfl

/-- A read that leaves WAIT_LINE is handed on (R54). -/
theorem proceed_read {e : HoldEntry} (h : e.req.kind = .read) (p : Part) : proceed p e = forward p e := by
  have hw : e.isWrite = false := by simp [HoldEntry.isWrite, h]
  simp only [proceed, hw, Bool.false_eq_true, if_false]

/-- The part once the lines of a write entry have been looked up and its hits counted (R47, R54). -/
def afterLookup (p : Part) (e : HoldEntry) : Part :=
  modHold (countHits p e.channel e.lines) e.req.tag fun x =>
    { x with lines := e.lines.map (lookedUp p e.channel), state := lookedUpState (e.lines.map (lookedUp p e.channel)) }

section
variable {p : Part} {e : HoldEntry} (h : e.req.kind = .write)
include h

/-- A write that leaves WAIT_LINE with every changed line DURABLE is handed on (R54, R67). -/
theorem proceed_durable (hd : ∀ l ∈ e.lines.map (lookedUp p e.channel), l.changed = true → l.sub = .durable) :
    proceed p e = forward (afterLookup p e) e := by
  have hw := (isWrite_iff e).mpr h
  have ha := (allDurable_iff _).mpr hd
  simp only [proceed, hw, if_true, ha]
  rfl

/-- Any other takes its state by its lines, and may expire as it enters it (R54, R57). -/
theorem proceed_touching (hd : ∃ l ∈ e.lines.map (lookedUp p e.channel), l.changed = true ∧ l.sub ≠ .durable) :
    proceed p e = expireLate (afterLookup p e) e.req.tag := by
  have hw := (isWrite_iff e).mpr h
  have ha : allDurable (e.lines.map (lookedUp p e.channel)) = false := by
    rw [Bool.eq_false_iff, Ne, allDurable_iff]
    obtain ⟨l, hmem, hc, hs⟩ := hd
    exact fun hall => hs (hall l hmem hc)
  simp only [proceed, hw, if_true, ha, Bool.false_eq_true, if_false]
  rfl

end

/-- A write handed on as its lookup ends (R54, R67). -/
theorem forward_afterLookup {e : HoldEntry} (h : e.req.kind = .write) (p : Part) : forward (afterLookup p e) e = { p with
    hold := { p.hold with lineTest := true, queue := p.hold.queue.map fun y =>
      if y.req.tag = e.req.tag then { y with lines := e.lines.map (lookedUp p e.channel), state := .forwarding } else y },
    arbiter := { p.arbiter with waiting := p.arbiter.waiting ++
      [{ purpose := .held e.req.tag, kind := .write, addr := e.req.addr, len := e.req.len, enables := e.req.enables,
         data := e.req.data }] },
    channels := setAt p.channels e.channel { chan p e.channel with
      trackerHits := countBy (e.lines.countP fun l => l.changed && (trackerLookup p.tracker l.line e.channel).isSome)
        (chan p e.channel).trackerHits,
      outstanding := (chan p e.channel).outstanding + 1 } } := by
  have hmap : ((afterLookup p e).hold.queue.map fun y =>
        if y.req.tag = e.req.tag then { y with state := .forwarding } else y) =
      p.hold.queue.map fun y =>
        if y.req.tag = e.req.tag then { y with lines := e.lines.map (lookedUp p e.channel), state := .forwarding } else y := by
    rw [afterLookup, modHold_eq, List.map_map]
    refine List.map_congr_left fun y _ => ?_
    by_cases hy : y.req.tag = e.req.tag <;> simp [hy]
  rw [forward_write h, hmap]
  simp [afterLookup, countHits, chan]

/-- The entry as its lookup leaves it. -/
theorem holdEntry_afterLookup {p : Part} {e : HoldEntry} (he : holdEntry p e.req.tag = some e) :
    holdEntry (afterLookup p e) e.req.tag = some { e with
      lines := e.lines.map (lookedUp p e.channel), state := lookedUpState (e.lines.map (lookedUp p e.channel)) } := by
  have hc : holdEntry (countHits p e.channel e.lines) e.req.tag = some e := he
  rw [afterLookup, holdEntry_modHold, hc]
  · rfl
  · exact fun _ => rfl

/-- Settles O23: the internal event, and the way of a read and of a write by its looked-up lines. -/
theorem waitLineIsLeft : Obligations.WaitLineIsLeft := by
  refine ⟨fun p e hl hf hc hr => ⟨fun hnone => ?_, fun hsome => ?_⟩, olderCleared_iff, fun p e hk => ?_, ?_⟩
  · rw [internal_lineTest hl hf hc hr, hnone, Option.elim_none]
  · rw [internal_lineTest hl hf hc hr, hsome, Option.elim_some]
  · rw [proceed_read hk, forward_read hk]
  · rintro p q e x _ _ hk hls rfl
    have hls' : _ = e.lines.map (lookedUp p e.channel) := hls.trans <| List.map_congr_left fun l _ => by
      rw [lookedUp_eq]
      cases trackerLookup p.tracker l.line e.channel <;> rfl
    rw [hls']
    refine ⟨fun hd => ?_, fun hd he hx hq => ?_⟩
    · rw [proceed_durable hk hd, forward_afterLookup hk]
    · rw [← lookedUpState_eq] at hx
      have hq' : q = afterLookup p e := by
        rw [hq, hx, afterLookup, modHold_eq]
        rfl
      have hentry : holdEntry q e.req.tag = some x := by rw [hq', hx, holdEntry_afterLookup he]
      have hnow : q.now = p.now := by rw [hq']; rfl
      rw [proceed_touching hk hd, ← hq']
      refine ⟨fun d hs hdl hlt => ?_, ?_⟩
      · exact expireLate_late hentry (by rw [hs]; rfl) (by rw [hx]; exact hdl) (hnow ▸ hlt)
      · rintro (hs | hdl)
        · exact expireLate_moving hentry (by rw [hs]; rfl)
        · exact expireLate_early hentry (by rw [hx, hnow]; exact hdl)

end Sys2Proof.Proofs

/-! A free copy slot is assigned to the first PENDING line of the oldest entry that may be copied (R48, R60, R61, R69, R179). -/

namespace Sys2Proof.Proofs

open Sys2Proof.Machine Sys2Proof.Laws

/-- The slots in ascending order. -/
theorem allSlots_sorted : allSlots.Pairwise (· < ·) := by decide

theorem mem_allSlots (k : Fin 4) : k ∈ allSlots := by revert k; decide

/-- The lowest-numbered free slot is taken (R60, log 57). -/
theorem find?_freeSlot {v : Vector (Option CopySlot) 4} {k : Fin 4} (hk : getAt v k = none)
    (hl : ∀ j, j < k → getAt v j ≠ none) : allSlots.find? (fun k => (getAt v k).isNone) = some k :=
  (find?_eq_some_of_sorted allSlots_sorted k).mpr
    ⟨mem_allSlots k, by simp [hk], fun j _ hj => by simpa [Option.isSome_iff_ne_none] using hl j hj⟩

/-- An entry that a slot may be assigned to: a write in WAIT_COPY or COPYING that has not failed, that no abort's drain
withholds and that has a PENDING line (R60, R116). -/
theorem copyEligible_iff (p : Part) (x : HoldEntry) : copyEligible p x = true ↔
    x.req.kind = .write ∧ (x.state = .waitCopy ∨ x.state = .copying) ∧ x.failed = false ∧ withheld p x = false ∧
      ∃ y ∈ x.lines, y.changed = true ∧ y.sub = .pending := by
  simp [copyEligible, HoldEntry.isWrite, HoldLine.isPending, and_assoc]

/-- With a slot free and a line to copy, the slot is assigned while the writer is RUNNING and no soft reset drains (R60). -/
theorem assignSlot_assigned {p : Part} {k : Fin 4} {e : HoldEntry} {l : HoldLine} (hw : p.writer.state = .running)
    (hd : p.command.busy ≠ .softReset) (hk : allSlots.find? (fun k => (getAt p.slots k).isNone) = some k)
    (he : p.hold.queue.find? (copyEligible p) = some e) (hl : e.lines.find? HoldLine.isPending = some l) :
    assignSlot p = some (startCopy p k e l) := by
  have hd' : draining p = false := by simpa [draining] using hd
  simp [assignSlot, hw, hd', hk, he, hl]

/-- The entry and the line that a slot is assigned to are COPYING (R61). -/
def copying (e : HoldEntry) (l : HoldLine) (untracked : Bool) (p : Part) : Part :=
  { p with hold := { p.hold with queue := p.hold.queue.map fun x =>
      if x.req.tag = e.req.tag then
        { x with state := .copying,
                 lines := x.lines.map fun y =>
                   if y.line = l.line then { y with sub := .copying, untracked := untracked } else y }
      else x } }

theorem modLine_copying (p : Part) (e : HoldEntry) (l : HoldLine) (untracked : Bool) :
    modLine (modHold p e.req.tag fun x => { x with state := .copying }) e.req.tag l.line
      (fun y => { y with sub := .copying, untracked := untracked }) = copying e l untracked p := by
  rw [modLine, modHold_modHold, modHold_eq]
  · simp only [beq_iff_eq]
    rfl
  · exact fun _ => rfl

/-- A copy started with room in the tracker: the line is tracked (R48). -/
theorem startCopy_tracked {p : Part} (h : p.tracker.length < 1024) (k : Fin 4) (e : HoldEntry) (l : HoldLine) :
    startCopy p k e l = copying e l false { p with
      tracker := p.tracker ++ [{ line := l.line, channel := e.channel, seq := none }],
      slots := setAt p.slots k (some { line := l.line, channel := e.channel, owner := some e.req.tag }),
      arbiter := { p.arbiter with waiting := p.arbiter.waiting ++ [engineRead (.copy k) l.line.toNat 64] } } := by
  have hroom : decide (p.tracker.length < Config.trackerDepth) = true := decide_eq_true h
  simp only [startCopy, hroom, if_true, Bool.not_true, modLine_copying]
  rfl

/-- A copy started with the tracker full: the line is untracked, and the channel overflows (R48, R49). -/
theorem startCopy_untracked {p : Part} (h : 1024 ≤ p.tracker.length) (k : Fin 4) (e : HoldEntry) (l : HoldLine) :
    startCopy p k e l = copying e l true { p with
      channels := setAt p.channels e.channel { chan p e.channel with overflow := true },
      slots := setAt p.slots k (some { line := l.line, channel := e.channel, owner := some e.req.tag }),
      arbiter := { p.arbiter with waiting := p.arbiter.waiting ++ [engineRead (.copy k) l.line.toNat 64] },
      events := { p.events with flags := p.events.flags ||| eventMask .trackerOverflow } } := by
  have hroom : decide (p.tracker.length < Config.trackerDepth) = false :=
    decide_eq_false (Nat.not_lt.mpr h)
  simp only [startCopy, hroom, Bool.false_eq_true, if_false, Bool.not_false, modLine_copying]
  rfl

/-- Settles O21: what withholds a slot, and the copy that is started with and without room in the tracker. -/
theorem slotIsAssigned : Obligations.SlotIsAssigned := by
  intro p k e l
  refine ⟨fun hw => ?_, fun hd => ?_, fun hs => ?_, fun hn => ?_, fun hw hd hk hlow he hl => ?_⟩
  · exact (assignSlot_eq_none_iff p).mpr (.inl hw)
  · exact (assignSlot_eq_none_iff p).mpr (.inr (.inl (by simp [draining, hd])))
  · refine (assignSlot_eq_none_iff p).mpr (.inr (.inr (.inl ?_)))
    simpa [List.find?_eq_none] using fun j _ => hs j
  · refine (assignSlot_eq_none_iff p).mpr (.inr (.inr (.inr ?_)))
    rw [List.find?_eq_none]
    intro x hx hc
    obtain ⟨hkind, hstate, hfailed, hfree, y, hy, hchanged, hsub⟩ := (copyEligible_iff p x).mp hc
    exact hn x hx hkind hstate hfailed hfree y hy hchanged hsub
  · rw [assignSlot_assigned hw hd (find?_freeSlot hk hlow) he hl]
    refine ⟨fun hroom => ?_, fun hfull => ?_⟩
    · rw [startCopy_tracked hroom]
      rfl
    · rw [startCopy_untracked hfull]
      rfl

end Sys2Proof.Proofs

/-! A hold entry that expires: refused, or on the torn path by the mark, by a TORN record, or refused there; and what a halt
leaves of the hold queue (R57 to R59, R83, R98, R102). -/

namespace Sys2Proof.Proofs

open Sys2Proof.Machine Sys2Proof.Laws

/-! ### The hold queue after a halt (R98, R102) -/

/-- Markers answered leave the hold unit alone. -/
theorem answerAll_hold (p : Part) (cs : List Chan) (code : RespCode) (why : MarkerReason) :
    (answerAll p cs code why).hold = p.hold := by
  rw [answerAll_eq code why _ cs p le_rfl]

/-- The commits that a halt fails leave it alone too. -/
theorem answerMarkers_stranded_hold (p : Part) (code : RespCode) (why : MarkerReason) :
    (answerMarkers p commitStranded code why).hold = p.hold := by
  rw [answerMarkers_eq p _ code why (commitStranded_local code why), answerAll_hold]

/-- The substates of the rollbacks follow the halt, the hold unit stays. -/
theorem haltRollbacks_hold (p : Part) : (haltRollbacks p).hold = p.hold := by
  have hsub : ∀ (cs : List Chan) (q : Part), (cs.foldl (fun q c => setSubstate q c .recording) q).hold = q.hold := by
    intro cs
    induction cs with
    | nil => exact fun _ => rfl
    | cons c cs ih => exact fun q => ih _
  unfold haltRollbacks
  dsimp only
  rw [answerAll_hold]
  split
  · exact hsub _ p
  · exact hsub _ p

/-- Refusing the write entries that are not in FORWARDING takes every one of them out of the queue (R102). -/
theorem refuseUnforwarded_queue (p : Part) {e : HoldEntry} (he : e ∈ p.hold.queue) (hw : e.req.kind = .write)
    (hs : e.state ≠ .forwarding) : ∀ x ∈ (refuseUnforwarded p).hold.queue, x.req.tag ≠ e.req.tag := by
  intro x hx ht
  rw [refuseUnforwarded, dismissAll_eq] at hx
  simp only [afterDismissal, List.any_nil, Bool.false_eq_true, if_false, List.map_id', List.mem_filter,
    Bool.not_eq_true', List.any_eq_false] at hx
  exact hx.2 e ⟨he, by simp [isWrite_iff, hw, hs]⟩ (by simp [ht])

/-- So a halt leaves none of them in the queue (R102). -/
theorem haltWriter_queue (p : Part) (cause : HaltCause) (seg : Nat) {e : HoldEntry} (he : e ∈ p.hold.queue)
    (hw : e.req.kind = .write) (hs : e.state ≠ .forwarding) :
    ∀ x ∈ (haltWriter p cause seg).hold.queue, x.req.tag ≠ e.req.tag := by
  unfold haltWriter
  dsimp only
  refine refuseUnforwarded_queue _ ?_ hw hs
  rw [haltRollbacks_hold, answerMarkers_stranded_hold]
  exact he

/-- A placement that gives no number changes nothing, opens a segment without the record, or halts the writer (R94, R98). -/
theorem place_none_cases {p q : Part} {r : PlaceReq} (h : place p r = (q, none)) :
    q = p ∨ (∃ i e, q = openSegment p i e) ∨ ∃ cause seg, q = haltWriter p cause seg := by
  unfold place at h
  split at h
  · split at h
    · exact .inl (Prod.mk.inj h).1.symm
    next i e _ =>
      split at h
      · split at h
        · cases (Prod.mk.inj h).2
        · exact .inr (.inr ⟨_, _, (Prod.mk.inj h).1.symm⟩)
      · split at h
        · dsimp only at h
          generalize (if slotsFree _ _ = 0 then 0 else 1) = pads at h
          split at h
          · split at h
            · exact .inr (.inl ⟨i, e, (Prod.mk.inj h).1.symm⟩)
            · cases (Prod.mk.inj h).2
          · exact .inr (.inr ⟨_, _, (Prod.mk.inj h).1.symm⟩)
        · exact .inl (Prod.mk.inj h).1.symm
  · exact .inl (Prod.mk.inj h).1.symm

/-- One that moves the writer has halted it (R98). -/
theorem place_halts {p q : Part} {r : PlaceReq} (h : place p r = (q, none)) (hs : q.writer.state ≠ p.writer.state) :
    ∃ cause seg, q = haltWriter p cause seg := by
  obtain rfl | ⟨i, e, rfl⟩ | hhalt := place_none_cases h
  · exact absurd rfl hs
  · exact absurd (congrArg (fun u => u.2.1.1) (openSegment_besides p i e)) hs
  · exact hhalt

/-! ### Expiry (R57, R58) -/

/-- The expiry of an entry is counted by its channel and raises HOLD_EXPIRED (R58). -/
def expiryCounted (p : Part) (e : HoldEntry) : Part := { p with
  channels := setAt p.channels e.channel
    { chan p e.channel with holdExpiries := countUp (chan p e.channel).holdExpiries },
  events := { p.events with flags := p.events.flags ||| eventMask .holdExpired } }

/-- An expiry that takes no torn path is a refusal (R58). -/
theorem expire_refused (p : Part) {e : HoldEntry} (h : e.req.kind = .read ∨ e.cls ≠ .lenient ∨ e.state = .waitEpoch) :
    expire p e = dismiss (expiryCounted p e) e .refused := by
  have hc : (e.isWrite && e.cls == .lenient && e.state.isTornWait) = false := by
    rcases h with h | h | h
    · simp [HoldEntry.isWrite, h]
    · simp [h]
    · simp [h, EntryState.isTornWait]
  simp only [expire, hc, Bool.false_eq_true, if_false]
  rfl

/-- The expiry of a LENIENT write in WAIT_LINE, WAIT_COPY or WAIT_SPACE takes the torn path (R58). -/
theorem expire_torn (p : Part) {e : HoldEntry} (hw : e.req.kind = .write) (hc : e.cls = .lenient)
    (hs : e.state = .waitLine ∨ e.state = .waitCopy ∨ e.state = .waitSpace) :
    expire p e = tornPath (expiryCounted p e) e := by
  have hwait : e.state.isTornWait = true := by rcases hs with h | h | h <;> rw [h] <;> rfl
  simp only [expire, (isWrite_iff e).mpr hw, hc, hwait, beq_self_eq_true, Bool.and_self, if_true]
  rfl

/-- HOLD_EXPIRY of a waiting entry that has not failed: it expires at its deadline (R57, log 1). -/
theorem exec_holdExpiry {p : Part} {tag : Tag} {e : HoldEntry} {d : Time} (w : List Instr)
    (he : holdEntry p tag = some e) (hd : e.deadline = some d) (hf : e.failed = false)
    (hs : e.state = .waitEpoch ∨ e.state = .waitLine ∨ e.state = .waitCopy ∨ e.state = .waitSpace) :
    exec (.holdExpiry tag) ⟨p, w⟩ = .next ⟨settle (expire (reachTime p d) e), w⟩ := by
  have hwait : e.state.isWaiting = true := by rcases hs with h | h | h | h <;> rw [h] <;> rfl
  have hdue : dueDeadline e = some d := by simp [dueDeadline, hwait, hf, hd]
  show Host.Outcome.next (State.mk (holdExpiryRow p tag) w) = _
  simp only [holdExpiryRow, he, hdue]

/-- Settles O36: the refusal as one record, and the row that brings it about. -/
theorem expiredEntryIsRefused : Obligations.ExpiredEntryIsRefused := by
  refine ⟨fun p e tag ht h => ?_, fun p w tag e d he hd hf hs h => ?_⟩
  · rw [expire_refused p h, dismiss_eq, ht]
    rfl
  · rw [exec_holdExpiry w he hd hf hs, expire_refused _ h, dismiss_eq, tag_of_holdEntry he]
    rfl

/-! ### The torn path (R59) -/

/-- An entry marked for the torn path: in RECORDING, its HELD images given up (R59, log 35). -/
def tornMarked (e : HoldEntry) : HoldEntry := { unheld e with state := .recording, torn := true }

/-- The mark, and the HELD images gone with their tracker entries (R59). -/
theorem markTorn_eq (p : Part) (e : HoldEntry) : markTorn p e = { p with
    tracker := p.tracker.filter fun x => !(e.lines.any fun l => l.isHeld && l.line == x.line),
    hold := { p.hold with queue := p.hold.queue.map fun x => if x.req.tag = e.req.tag then tornMarked x else x } } := by
  rw [markTorn, discardHeld, modHold_modHold, modHold_eq]
  · simp only [foldl_untrackLine, List.any_filter]
    rfl
  · exact fun _ => rfl

section
variable {p : Part} {e : HoldEntry}

/-- With the channel's torn flag set or its TORN record placed the entry is marked (R59). -/
theorem tornPath_marked (h : (chan p e.channel).torn = true ∨ (chan p e.channel).tornRecord ≠ none) :
    tornPath p e = markTorn p e := by
  refine if_pos ?_
  simpa [Option.isSome_iff_ne_none] using h

section
variable (ht : (chan p e.channel).torn = false) (hr : (chan p e.channel).tornRecord = none)
include ht hr

/-- Else a TORN record is asked for; placed, its number is kept and the entry is marked (R59). -/
theorem tornPath_placed {q : Part} {n : Seq} (hp : place p (tornRequest e) = (q, some n)) :
    tornPath p e = markTorn (modChan q e.channel fun ch => { ch with tornRecord := some n }) e := by
  simp [tornPath, ht, hr, hp]

/-- Not placed, an entry that is still there is refused (R59). -/
theorem tornPath_refused {q : Part} {x : HoldEntry} (hp : place p (tornRequest e) = (q, none))
    (hx : holdEntry q e.req.tag = some x) : tornPath p e = dismiss q x .refused := by
  simp [tornPath, ht, hr, hp, hx]

/-- Where the placement has halted the writer, the halt has answered it (R102). -/
theorem tornPath_halted {q : Part} (hp : place p (tornRequest e) = (q, none))
    (hx : holdEntry q e.req.tag = none) : tornPath p e = q := by
  simp [tornPath, ht, hr, hp, hx]

end

end

/-- Counting an expiry leaves the channel's TORN record and its torn flag as they are. -/
theorem chan_expiryCounted (p : Part) (e : HoldEntry) : chan (expiryCounted p e) e.channel =
    { chan p e.channel with holdExpiries := countUp (chan p e.channel).holdExpiries } :=
  getAt_setAt_self ..

/-- Settles O37: the row, and the torn path in its four outcomes. -/
theorem tornPathIsTaken : Obligations.TornPathIsTaken := by
  refine ⟨fun p w tag e d he hd hf hs => exec_holdExpiry w he hd hf hs, ?_⟩
  rintro p _ tag e _ _ _ he hw hc hs rfl rfl rfl rfl
  have ht := tag_of_holdEntry he
  rw [expire_torn p hw hc hs]
  refine ⟨fun h => ?_, fun htorn hrecord => ?_⟩
  · rw [tornPath_marked (by rwa [chan_expiryCounted]), markTorn_eq, ht]
    rfl
  · have htorn' : (chan (expiryCounted p e) e.channel).torn = false := by rwa [chan_expiryCounted]
    have hrecord' : (chan (expiryCounted p e) e.channel).tornRecord = none := by rwa [chan_expiryCounted]
    refine ⟨fun q n hp => ?_, fun hp => ?_, fun q hp hq => ?_⟩
    · rw [tornPath_placed htorn' hrecord' hp, markTorn_eq, ht]
      rfl
    · have hx : holdEntry (expiryCounted p e) e.req.tag = some e := by rw [ht]; exact he
      rw [tornPath_refused htorn' hrecord' hp hx, dismiss_eq, ht]
    · obtain ⟨cause, seg, rfl⟩ := place_halts hp hq
      have hmoving : e.state ≠ .forwarding := by rcases hs with h | h | h <;> rw [h] <;> decide
      exact tornPath_halted htorn' hrecord' hp ((holdEntry_eq_none_iff _ _).mpr
        (haltWriter_queue _ cause seg (mem_of_holdEntry he) hw hmoving))

end Sys2Proof.Proofs

/-! Recovery overtaken by a soft reset's drain or by a freeze: what the answer to its request in flight does then (R142, R143). -/

namespace Sys2Proof.Proofs

open Sys2Proof.Machine Sys2Proof.Laws

/-! ### An answer that recovery no longer acts on -/

/-- In a drain the answer takes the stage away and does nothing more (R142). -/
theorem unlessStopped_draining {p : Part} (h : p.command.busy = .softReset) (go : Part) :
    unlessStopped p go = { p with restore := { p.restore with stage := .idle } } := by
  simp [unlessStopped, draining, h]

/-- In a freeze it ends recovery in RECOVERY_FAILED with reason FROZEN (R143). -/
theorem unlessStopped_frozen {p : Part} (hd : p.command.busy ≠ .softReset) (hf : p.power.frozen = true) (go : Part) :
    unlessStopped p go = recoveryFails p .frozen nowhere := by
  simp [unlessStopped, draining, hd, hf]

/-! ### Recovery's rows -/

section
variable {p : Part} {t : DTag} {r : DownReq} {k s slot : Nat} {n : Seq} {h : HeaderSlot} {ps : List Piece} (w : List Instr)
  (hi : getAt p.arbiter.issued t = some r) (hr : r.purpose = .recovery k)
include hi hr

/-- The tag is held by a piece of recovery's transfer. -/
theorem recoveryPieceOf_eq : recoveryPieceOf p t = some k := by
  have hi' : issuedAt p t = some r := hi
  simp only [recoveryPieceOf, hi', hr]

/-- RECOVERY_RESTORE_WRITE_ANSWERED of a restore write in RESTORING (R136). -/
theorem exec_restoreWriteAnswered (a : WriteAnswer) (hs : p.restore.stage = .backWrite s slot n h) :
    exec (.recoveryRestoreWriteAnswered t a) ⟨p, w⟩ = .next ⟨backWriteAnswered (freeTag p t) s slot n h a, w⟩ := by
  show Host.Outcome.next (State.mk (backWriteRow p t a) w) = _
  simp only [backWriteRow, recoveryWriteRow, recoveryPieceOf_eq hi hr, hs]

/-! With recovery stopped, what an answer would have brought about does not happen: `q` is left whatever it is. -/

variable {q : Part} (hq : ∀ go, unlessStopped (freeTag p t) go = q)
include hq

/-- A read of SCANNING (R133). -/
theorem exec_scanReadAnswered_stopped (a : ReadAnswer) (hs : p.restore.stage = .scanHeader s ∨
      p.restore.stage = .scanSlot s slot n ∨ p.restore.stage = .scanRecord s slot n ps) :
    exec (.scanReadAnswered t a) ⟨p, w⟩ = .next ⟨q, w⟩ := by
  show Host.Outcome.next (State.mk (scanRow p t a) w) = _
  rcases hs with hs | hs | hs <;> cases a <;>
    simp only [scanRow, recoveryPieceOf_eq hi hr, hs, scanAnswered, scanPieceAnswered, freeTag_restore, hq]

/-- A header read of RESTORING (R136). -/
theorem exec_restoreHeaderAnswered_stopped (a : ReadAnswer) (hs : p.restore.stage = .backHeader s slot n) :
    exec (.recoveryRestoreReadAnswered t a) ⟨p, w⟩ = .next ⟨q, w⟩ := by
  show Host.Outcome.next (State.mk (backReadRow p t a) w) = _
  cases a <;> simp only [backReadRow, recoveryPieceOf_eq hi hr, hs, backHeaderAnswered, hq]

/-- The last piece of a payload read of RESTORING (R136, R154). -/
theorem exec_restorePayloadAnswered_stopped (a : ReadAnswer) (hs : p.restore.stage = .backPayload s slot n h ps)
    (hall : allAnswered (ps.set k (pieceOfAnswer a)) = true) :
    exec (.recoveryRestoreReadAnswered t a) ⟨p, w⟩ = .next ⟨q, w⟩ := by
  show Host.Outcome.next (State.mk (backReadRow p t a) w) = _
  simp only [backReadRow, recoveryPieceOf_eq hi hr, hs, backPieces, hall, if_true, hq]

/-- An EMPTY header write of FORMAT (R130). -/
theorem exec_formatHeaderWriteAnswered_stopped (a : WriteAnswer) (hs : p.restore.stage = .formatHeader s) :
    exec (.formatHeaderWriteAnswered t a) ⟨p, w⟩ = .next ⟨q, w⟩ := by
  show Host.Outcome.next (State.mk (formatRow p t a) w) = _
  cases a <;> simp only [formatRow, recoveryWriteRow, recoveryPieceOf_eq hi hr, hs, formatAnswered, hq]

/-- The ACTIVE header write of a rebase or FORMAT (R139). -/
theorem exec_rebaseHeaderWriteAnswered_stopped (a : WriteAnswer) (hs : p.restore.stage = .activeHeader s) :
    exec (.rebaseHeaderWriteAnswered t a) ⟨p, w⟩ = .next ⟨q, w⟩ := by
  rw [exec_rebaseHeaderWriteAnswered w a hi hr hs]
  cases a <;> simp only [activeAnswered, hq]

end

/-- The answer to a restore write in a drain (R142). -/
theorem backWriteAnswered_draining {p : Part} (hd : p.command.busy = .softReset) (s slot : Nat) (n : Seq) (h : HeaderSlot)
    (a : WriteAnswer) :
    backWriteAnswered p s slot n h a = { p with restore := { p.restore with stage := .idle } } := by
  cases a with
  | done =>
    have hd' : draining p = true := by simp [draining, hd]
    simp only [backWriteAnswered, hd', if_true, unlessStopped_draining hd]
  | failed => exact unlessStopped_draining hd _

/-- Outside a drain a restore write answered DONE has restored its line, which counts (R136, log 15). -/
theorem backWriteAnswered_done {p : Part} (hd : p.command.busy ≠ .softReset) (s slot : Nat) (n : Seq) (h : HeaderSlot) :
    backWriteAnswered p s slot n h .done =
      unlessStopped (countRecovered p h) (backStep (countRecovered p h) s slot n h) := by
  have hd' : draining p = false := by simpa [draining] using hd
  simp only [backWriteAnswered, hd', Bool.false_eq_true, if_false]

/-- Recovery or format ended by a freeze, as a record (R143, log 15). -/
theorem recoveryFails_frozen {p : Part} {name : CommandName}
    (h : (p.command.busy = .recover ∧ name = .recover) ∨ (p.command.busy = .format ∧ name = .format)) :
    recoveryFails p .frozen nowhere = { p with
      restore := { p.restore with
        recovery := .failed, lastFailure := .frozen, stage := .idle, left := [],
        report := { p.restore.report with outcome := .failed, reason := .frozen, faultSegment := none,
                                          faultSeq := none, faultLine := none, secondSegment := none } },
      command := { busy := .none, last := { command := name, result := .failed, reason := .frozen,
                                            detail := .none, overlap := 0 } },
      events := { p.events with flags := p.events.flags ||| eventMask .recoveryFailed } } := by
  have hname : busyName p = name := by
    rcases h with ⟨hb, rfl⟩ | ⟨hb, rfl⟩ <;> simp only [busyName, hb]
  rw [← hname]
  rfl

end Sys2Proof.Proofs

/-! The markers that a drain and a freeze answer, and the start of a soft reset's drain as one record: intake queue, hold queue,
markers, and recovery stopped (R69, R110, R126, R127, R142, R160, R167, R178, R179). -/

namespace Sys2Proof.Proofs

open Sys2Proof.Machine Sys2Proof.Laws

/-! ### The markers answered at both -/

/-- The channels whose commit's record is not placed (R34, R167, R179). -/
def unplacedCommits (p : Part) : List Chan := allChannels.filter (commitUnplaced p)

/-- The channels whose rollback is being served without its record, or waits in the abort queue (R126, R127). -/
def unplacedAborts (p : Part) : List Chan := rollbackUnplaced p ++ p.restore.abortQueue

theorem unplacedCommits_eq (p : Part) : unplacedCommits p = ([0, 1, 2, 3] : List Chan).filter fun c =>
    (chan p c).marker.any fun m => m.action == .commit && m.record.isNone := by
  refine List.filter_congr fun c _ => ?_
  unfold commitUnplaced
  cases (chan p c).marker <;> rfl

theorem unplacedAborts_eq (p : Part) : unplacedAborts p =
    (p.restore.rollback.toList.filter fun x => x.abortRecord.isNone).map (·.channel) ++ p.restore.abortQueue := by
  unfold unplacedAborts rollbackUnplaced
  cases p.restore.rollback with
  | none => rfl
  | some x => cases h : x.abortRecord <;> simp [h]

/-- Markers answered leave recovery and the abort queue alone. -/
theorem answerAll_restore (p : Part) (cs : List Chan) (code : RespCode) (why : MarkerReason) :
    (answerAll p cs code why).restore = p.restore := by
  rw [answerAll_eq code why _ cs p le_rfl]

/-- Commits and aborts without their record are answered in one list (R126, R127, R167, R179, log 11). -/
theorem answer_unplaced {p q : Part} {why : MarkerReason} (hq : answerMarkers p commitUnplaced .refused why = q) :
    answerAll q (rollbackUnplaced q ++ q.restore.abortQueue) .refused why =
      answerAll p (unplacedCommits p ++ unplacedAborts p) .refused why := by
  have hcommits : q = answerAll p (unplacedCommits p) .refused why :=
    hq.symm.trans (answerMarkers_eq p _ _ why (commitUnplaced_local _ why))
  have hrestore : q.restore = p.restore := by rw [hcommits, answerAll_restore]
  have haborts : rollbackUnplaced q ++ q.restore.abortQueue = unplacedAborts p := by
    simp only [rollbackUnplaced, unplacedAborts, hrestore]
  rw [haborts, hcommits, answerAll_append]

/-- The channels after their answers, by what each has of a marker. -/
theorem answeredChannels_unique {p : Part} {commits aborts : List Chan} {why : MarkerReason} {chs : Vector Channel 4}
    (h : ∀ c, getAt chs c =
      if (c ∈ commits ∨ c ∈ aborts) ∧ (chan p c).marker ≠ none then
        { chan p c with marker := none, last := { (chan p c).last with result := .refused, reason := why } }
      else chan p c) : chs = answeredChannels p.channels (commits ++ aborts) .refused why := by
  refine ext_getAt fun c => ?_
  simp only [h, getAt_answeredChannels, List.mem_append]
  by_cases hc : c ∈ commits ∨ c ∈ aborts
  · simp only [hc, true_and, if_true, answeredChannel, chan]
    cases hm : (getAt p.channels c).marker <;> simp [RespCode.asResult]
  · simp only [hc, false_and, if_false, chan]

/-! ### The start of a drain (R178, R179) -/

/-- The intake queue answered REFUSED in queue order (R160). -/
theorem drainIntake_eq (p : Part) : drainIntake p = { p with port := { p.port with
    tags := (p.port.intake.map fun x => ({ tag := x.req.tag, code := .refused, data := [] } : Response)).foldl
      (fun v x => setAt v x.tag false) p.port.tags,
    intake := [],
    responses := p.port.responses ++ p.port.intake.map fun x => { tag := x.req.tag, code := .refused, data := [] } } } := by
  have hfold : ∀ (l : List IntakeEntry) (q : Part), l.foldl (fun q e => respond q e.req.tag .refused []) q =
      { q with port := { q.port with
        tags := (l.map fun x => ({ tag := x.req.tag, code := .refused, data := [] } : Response)).foldl
          (fun v x => setAt v x.tag false) q.port.tags,
        responses := q.port.responses ++ l.map fun x => { tag := x.req.tag, code := .refused, data := [] } } } := by
    intro l
    induction l with
    | nil => intro q; simp
    | cons x l ih => intro q; rw [List.foldl_cons, ih]; simp [respond]
  exact hfold _ _

/-- The entries that the drain answers (R69, log 22). -/
def drainedOut (p : Part) : List HoldEntry := p.hold.queue.filter fun e => !keptByDrain e

/-- The answers at the start of a drain, in their order (log 11). -/
def drainAnswers (p : Part) : List Response :=
  p.port.intake.map (fun x => { tag := x.req.tag, code := .refused, data := [] }) ++
    (drainedOut p).map (fun e => { tag := e.req.tag, code := .refused, data := [] }) ++
    markerAnswers p (unplacedCommits p ++ unplacedAborts p) .refused

/-- The hold queue at the start of a drain, as a record (R69). -/
theorem drainHold_eq (p : Part) : drainHold p = { p with
    port := { p.port with
      tags := ((drainedOut p).map fun e => ({ tag := e.req.tag, code := .refused, data := [] } : Response)).foldl
        (fun v x => setAt v x.tag false) p.port.tags,
      responses := p.port.responses ++ (drainedOut p).map fun e => { tag := e.req.tag, code := .refused, data := [] } },
    tracker := p.tracker.filter fun x => !(heldLine (drainedOut p) x.line),
    hold := { p.hold with
      queue := p.hold.queue.filter fun x => !((drainedOut p).any fun e => e.req.tag == x.req.tag),
      lineTest := p.hold.lineTest || !(drainedOut p).isEmpty, headRetry := p.hold.headRetry || !(drainedOut p).isEmpty },
    slots := disowned (drainedOut p) p.slots } := by
  rw [drainHold, dismissAll_eq, ← drainedOut]
  simp only [afterDismissal, List.append_nil, List.any_nil, Bool.false_eq_true, if_false, List.map_id', List.foldl_map]

/-- The start of the drain as a record (R178, R179). -/
theorem drainBlocks_eq (p : Part) : drainBlocks p = { p with
    port := { p.port with intake := [], tags := (drainAnswers p).foldl (fun v x => setAt v x.tag false) p.port.tags,
                          responses := p.port.responses ++ drainAnswers p },
    tracker := p.tracker.filter fun x => !(heldLine (drainedOut p) x.line),
    hold := { p.hold with
      queue := p.hold.queue.filter fun x => !((drainedOut p).any fun e => e.req.tag == x.req.tag),
      lineTest := p.hold.lineTest || !(drainedOut p).isEmpty, headRetry := p.hold.headRetry || !(drainedOut p).isEmpty },
    slots := disowned (drainedOut p) p.slots,
    writer := { p.writer with waiting := [] },
    channels := answeredChannels p.channels (unplacedCommits p ++ unplacedAborts p) .refused .softReset,
    command := { p.command with busy := .softReset } } := by
  unfold drainBlocks
  dsimp only
  rw [answer_unplaced rfl, answerAll_eq _ _ _ _ _ le_rfl, drainIntake_eq, drainHold_eq]
  simp only [drainAnswers, List.foldl_append, ← List.append_assoc]
  rfl

/-- A further SOFT_RESET while its drain runs has no effect (R178). -/
theorem softResetTaken_draining {p : Part} (h : p.command.busy = .softReset) : softResetTaken p = p := by
  simp [softResetTaken, draining, h]

/-- The first begins the drain (R178). -/
theorem softResetTaken_begins {p : Part} (h : p.command.busy ≠ .softReset) : softResetTaken p = settle (drainBlocks p) := by
  simp [softResetTaken, draining, h]

theorem exec_softReset {p q : Part} (w : List Instr) (h : p.link.writesAt 3 = true) (hj : softResetTaken p = q)
    (hq : q.link = p.link) : exec .softReset ⟨p, w⟩ = .next ⟨{ q with link := p.link.afterGroup }, w⟩ :=
  changed_commandGroup 6 0 w h hj hq

/-- What the internal events after the drain's start leave as it was then. -/
theorem settle_drainBlocks {p u : Part} (hu : settle (drainBlocks p) = u) :
    u.command = { p.command with busy := .softReset } ∧ (p.port.responses ++ drainAnswers p) <+: u.port.responses ∧
    u.classifier = p.classifier ∧ u.power = p.power ∧ u.now = p.now ∧ u.arbiter.issued = p.arbiter.issued ∧
    u.restore.tables = p.restore.tables ∧ u.restore.report = p.restore.report ∧ u.link = p.link := by
  obtain ⟨-, -, -, kr, ku⟩ := settle_keeps (drainBlocks p)
  rw [hu, drainBlocks_eq] at kr ku
  simp only [untouched, Prod.mk.injEq] at ku
  obtain ⟨⟨hclassifier, hlink, hcommand, hpower, hnow⟩, ⟨-, -, -, hissued, -⟩, -, -, -, -, -, htables, hreport⟩ := ku
  exact ⟨hcommand, kr, hclassifier, hpower, hnow, hissued, htables, hreport, hlink⟩

/-- Settles O43: the drain's start as one record, and recovery's rows in the drain. -/
theorem softResetBeginsDrain : Obligations.SoftResetBeginsDrain := by
  refine ⟨fun p w commits aborts gone done chs hl => ⟨fun hb => ?_, fun hb hcommits haborts hgone hdone hchs => ?_⟩,
    fun p q w t r k s slot n h ps a b hi hr hb hq => ?_⟩
  · exact exec_softReset w hl (softResetTaken_draining hb) rfl
  · have hchs' := answeredChannels_unique hchs
    rw [← unplacedCommits_eq] at hcommits
    rw [← unplacedAborts_eq] at haborts
    subst hcommits haborts hgone hdone hchs'
    obtain ⟨u, hu⟩ : ∃ u, settle (drainBlocks p) = u := ⟨_, rfl⟩
    obtain ⟨hcommand, hresponses, hclassifier, hpower, hnow, hissued, htables, hreport, hlink⟩ := settle_drainBlocks hu
    refine ⟨u, ?_, exec_softReset w hl ((softResetTaken_begins hb).trans hu) hlink, hcommand, hresponses,
      hclassifier, hpower, hnow, hissued, htables, hreport⟩
    rw [← hu, drainBlocks_eq]
    rfl
  · have hstop : ∀ go, unlessStopped (freeTag p t) go = q := fun go =>
      (unlessStopped_draining (p := freeTag p t) hb go).trans hq.symm
    refine ⟨exec_scanReadAnswered_stopped w hi hr hstop a, exec_restoreHeaderAnswered_stopped w hi hr hstop a,
      exec_restorePayloadAnswered_stopped w hi hr hstop a, fun hs => ?_,
      exec_formatHeaderWriteAnswered_stopped w hi hr hstop b, exec_rebaseHeaderWriteAnswered_stopped w hi hr hstop b⟩
    rw [exec_restoreWriteAnswered w hi hr b hs, backWriteAnswered_draining (p := freeTag p t) hb, hq]
    rfl

end Sys2Proof.Proofs

/-! The freeze as one record, and recovery's answers in it (R66, R109, R126, R136, R143, R161, R162, R164, R167). -/

namespace Sys2Proof.Proofs

open Sys2Proof.Machine Sys2Proof.Laws

/-! ### The freeze (R161 to R167) -/

/-- The entries that the freeze answers REFUSED, by their states (R164). -/
theorem frozenOut_eq (e : HoldEntry) : frozenOut e = (e.isWrite && (e.state == .waitEpoch || e.state == .waitLine ||
    e.state == .waitCopy || e.state == .waitSpace || (e.state == .copying && !e.failed))) := by
  unfold frozenOut
  cases e.state <;> cases e.isWrite <;> cases e.failed <;> rfl

/-- The answers of a freeze, in their order (log 11). -/
def freezeAnswers (p : Part) : List Response :=
  markerAnswers p (unplacedCommits p ++ unplacedAborts p) .refused ++
    (p.hold.queue.filter frozenOut).map fun e => { tag := e.req.tag, code := .refused, data := [] }

/-- The freeze as a record (R66, R109, R126, R161, R164, R167, log 45). -/
theorem freezeBlocks_eq (p : Part) {gone kept : List HoldEntry} (hg : p.hold.queue.filter frozenOut = gone)
    (hk : p.hold.queue.filter frozenFailed = kept) : freezeBlocks p = { p with
    port := { p.port with tags := (freezeAnswers p).foldl (fun v x => setAt v x.tag false) p.port.tags,
                          responses := p.port.responses ++ freezeAnswers p },
    tracker := p.tracker.filter fun x => !(heldLine (gone ++ kept) x.line),
    hold := { p.hold with
      queue := (p.hold.queue.filter fun x => !(gone.any fun e => e.req.tag == x.req.tag)).map fun x =>
        if kept.any (fun e => e.req.tag == x.req.tag) then unheld x else x,
      lineTest := p.hold.lineTest || !gone.isEmpty, headRetry := p.hold.headRetry || !gone.isEmpty },
    slots := disowned gone p.slots,
    writer := { p.writer with state := if p.writer.state = .halted then .halted else .frozen, waiting := [] },
    channels := answeredChannels p.channels (unplacedCommits p ++ unplacedAborts p) .refused .frozen,
    events := { p.events with flags := p.events.flags ||| eventMask .pfailFrozen },
    power := { p.power with frozen := true } } := by
  subst hg hk
  unfold freezeBlocks
  dsimp only
  rw [answer_unplaced rfl, freezeEntries_eq, answerAll_eq _ _ _ _ _ le_rfl]
  simp only [afterDismissal, freezeAnswers, List.foldl_append, List.foldl_map, ← List.append_assoc, freezeWriter, beq_iff_eq]
  rfl

/-- An assertion of PFAIL changes the level shown (R161). -/
def asserted (p : Part) : Part := { p with power := { p.power with pfail := true } }

theorem exec_pfailAssertion (p : Part) (w : List Instr) :
    exec .pfailAssertion ⟨p, w⟩ = .next ⟨takeFreeze (asserted p), w⟩ := rfl

/-- The first assertion takes the freeze (R161). -/
theorem takeFreeze_first {p : Part} (h : p.power.frozen = false) : takeFreeze p = settle (freezeBlocks p) := by
  simp [takeFreeze, h]

/-- A further assertion changes nothing but the level shown (R161). -/
theorem takeFreeze_further {p : Part} (h : p.power.frozen = true) : takeFreeze (asserted p) =
    { p with power := { frozen := true, pfail := true } } := by
  simp [takeFreeze, asserted, h]

/-- The report of a record's channel once its line has been restored (R132, R136). -/
def restoredReport (p : Part) (h : HeaderSlot) : ChannelReport :=
  { getAt p.restore.report.channels h.channel with
    restored := (getAt p.restore.report.channels h.channel).restored + 1,
    epochsRestored := if getAt p.restore.previous h.channel = some h.epoch
      then (getAt p.restore.report.channels h.channel).epochsRestored
      else (getAt p.restore.report.channels h.channel).epochsRestored + 1 }

/-- A restored line counted, as a record (R136). -/
theorem countRecovered_eq (p : Part) (h : HeaderSlot) : countRecovered p h = { p with restore := { p.restore with
    report := { p.restore.report with
      channels := setAt p.restore.report.channels h.channel (restoredReport p h) },
    previous := setAt p.restore.previous h.channel (some h.epoch) } } := by
  simp only [countRecovered, modReport, restoredReport, beq_iff_eq]

/-- Settles O46: the freeze as one record, the negation, and recovery's rows in the freeze. -/
theorem pfailIsTaken : Obligations.PfailIsTaken := by
  refine ⟨fun p w commits aborts gone kept done chs =>
    ⟨fun hf => ?_, fun hf hcommits haborts hgone hkept hdone hchs => ?_⟩, fun _ _ => rfl,
    fun p q w t r k s slot n h ps a b name hi hr hf hname hq => ?_⟩
  · rw [exec_pfailAssertion, takeFreeze_further hf]
  · have hchs' := answeredChannels_unique hchs
    rw [← unplacedCommits_eq] at hcommits
    rw [← unplacedAborts_eq] at haborts
    have hgone' : p.hold.queue.filter frozenOut = gone := by
      rw [hgone]
      exact List.filter_congr fun e _ => frozenOut_eq e
    have hkept' : p.hold.queue.filter frozenFailed = kept := hkept.symm
    have hdone' : done = freezeAnswers (asserted p) := by
      rw [hdone, hcommits, haborts, ← hgone']
      rfl
    subst hcommits haborts hdone' hchs'
    obtain ⟨u, hu, hpower, hset, hstate, -, hclassifier, hlink, hcommand, hnow, hissued, -, hresponses⟩ :=
      takeFreeze_spec (p := asserted p) hf
    refine ⟨u, ?_, by rw [exec_pfailAssertion, hu], hpower, hset, hstate, hclassifier, hlink, hcommand, hnow, hissued,
      hresponses⟩
    rw [← hu, takeFreeze_first (p := asserted p) hf, freezeBlocks_eq (asserted p) hgone' hkept']
    rfl
  · have hd : p.command.busy ≠ .softReset := by
      rcases hname with ⟨hb, -⟩ | ⟨hb, -⟩ <;> rw [hb] <;> decide
    have hstop : ∀ go, unlessStopped (freeTag p t) go = q := fun go =>
      (unlessStopped_frozen (p := freeTag p t) hd hf go).trans ((recoveryFails_frozen (p := freeTag p t) hname).trans hq.symm)
    refine ⟨exec_scanReadAnswered_stopped w hi hr hstop a, exec_restoreHeaderAnswered_stopped w hi hr hstop a,
      exec_restorePayloadAnswered_stopped w hi hr hstop a, fun hs => ?_, ?_,
      exec_formatHeaderWriteAnswered_stopped w hi hr hstop b, exec_rebaseHeaderWriteAnswered_stopped w hi hr hstop b⟩
    · rw [exec_restoreWriteAnswered w hi hr _ hs, backWriteAnswered, hstop]
    · rintro _ hs rfl
      rw [exec_restoreWriteAnswered w hi hr _ hs, backWriteAnswered_done (p := freeTag p t) hd,
        unlessStopped_frozen (p := countRecovered (freeTag p t) h) hd hf,
        recoveryFails_frozen (p := countRecovered (freeTag p t) h) hname, countRecovered_eq, hq]
      rfl

end Sys2Proof.Proofs

/-! A segment header read back, and the test of a header, condition by condition (R70, R73 to R77). -/

namespace Sys2Proof.Proofs

open Sys2Proof.Machine Sys2Proof.Laws

/-! ### The words of a header (R73, R74) -/

/-- A value with more bits below it. -/
theorem toNat_append_bits {m n : Nat} (x : BitVec m) (y : BitVec n) : (x ++ y).toNat = 2 ^ n * x.toNat + y.toNat := by
  rw [BitVec.toNat_append, ← Nat.shiftLeft_add_eq_or_of_lt y.isLt, Nat.shiftLeft_eq, Nat.mul_comm]

/-- A field of a word as a number. -/
theorem toNat_field (x : Word) (lo len : Nat) : (x.extractLsb' lo len).toNat = x.toNat / 2 ^ lo % 2 ^ len := by
  rw [BitVec.extractLsb'_toNat, Nat.shiftRight_eq_div_pow]

/-- Sixteen bits widened to a word. -/
theorem zeroExtend_ofNat_sixteen {n : Nat} (h : n < 2 ^ 16) : (BitVec.ofNat 16 n).zeroExtend 32 = BitVec.ofNat 32 n := by
  apply BitVec.eq_of_toNat_eq
  simp only [BitVec.toNat_setWidth, BitVec.toNat_ofNat]
  omega

/-- The upper part of a 48-bit number fits its 16 bits (R74). -/
theorem upper48_lt {n : Nat} (h : n < 2 ^ 48) : n / 2 ^ 32 < 2 ^ 16 := by omega

/-- A 48-bit number from its lower word and the lower half of its upper word. -/
theorem split48_of_word (n : Nat) (h : n < 2 ^ 48) :
    n % 2 ^ 32 + 2 ^ 32 * (n / 2 ^ 32 % 2 ^ 32 / 2 ^ 0 % 2 ^ 16) = n := by omega

/-- Word 2 of a segment header: the index, the size code, and ACTIVE or EMPTY (R74, R75). -/
theorem segmentWord2_eq (sizeCode : BitVec 3) (seg : Nat) (active : Bool) (h : seg < 64) :
    0#14 ++ BitVec.ofBool (!active) ++ BitVec.ofBool active ++ 0#5 ++ sizeCode ++ 0#2 ++ BitVec.ofNat 6 seg =
      BitVec.ofNat 32 (seg + 2 ^ 8 * sizeCode.toNat + if active then 2 ^ 16 else 2 ^ 17) := by
  have hsize := sizeCode.isLt
  apply BitVec.eq_of_toNat_eq
  simp only [toNat_append_bits, BitVec.toNat_ofNat]
  cases active <;> simp <;> omega

/-- The 16 words of a header are its 15 fields and the check word over them (R73, R74). -/
theorem words_segmentHeaderBytes (g : Geometry) (seg : Nat) (active : Bool) (first : Seq) (resolved : Vector Epoch 4) :
    (List.range 16).map (wordAt (segmentHeaderBytes g seg active first resolved)) =
      segmentHeaderFields g seg active first resolved ++
        [checkWord (segmentHeaderFields g seg active first resolved)] := by
  have hlen : (segmentHeaderFields g seg active first resolved ++
      [checkWord (segmentHeaderFields g seg active first resolved)]).length = 16 := rfl
  refine List.ext_getElem hlen.symm fun i h _ => ?_
  have hi : i < 16 := by simpa using h
  have hword := wordAt_flatten (segmentHeaderFields g seg active first resolved ++
    [checkWord (segmentHeaderFields g seg active first resolved)]) i [] (by rw [hlen]; exact hi)
  rw [List.append_nil] at hword
  rw [List.getElem_map, List.getElem_range, segmentHeaderBytes, hword, List.getD_eq_getElem?_getD,
    List.getElem?_eq_getElem (by rw [hlen]; exact hi), Option.getD_some]

/-- A word of a header from the list of its 16 words. -/
theorem wordAt_of_words {bs : List Byte} {ws : List Word} (h : (List.range 16).map (wordAt bs) = ws) {k : Nat}
    (hk : k < 16) : wordAt bs k = ws.getD k 0 := by
  rw [← h, List.getD_eq_getElem?_getD, List.getElem?_map, List.getElem?_range hk]
  rfl

/-! ### The test of a header (R76, R77) -/

/-- The four conditions of a valid header (R77). -/
theorem segmentHeaderValid_iff (g : Geometry) (i : Nat) (bs : List Byte) : segmentHeaderValid g i bs = true ↔
    wordAt bs 0 = 0x4A455348 ∧ wordAt bs 1 = g.identity ∧ ((wordAt bs 2).extractLsb' 0 6).toNat = i ∧
      wordAt bs 15 = ~~~ (((List.range 15).map (wordAt bs)).foldl (· + ·) 0) := by
  simp only [segmentHeaderValid, Bool.and_eq_true, beq_iff_eq, checkWord, sumWords_eq_foldl, and_assoc]
  rfl

/-- A used header is ACTIVE and not EMPTY (R76). -/
theorem segmentHeaderUsed_iff (bs : List Byte) : segmentHeaderUsed bs = true ↔
    (wordAt bs 2).getLsbD 16 = true ∧ (wordAt bs 2).getLsbD 17 = false := by
  simp [segmentHeaderUsed]

/-! ### A written header, read back -/

section
variable (g : Geometry) (seg : Nat) (active : Bool) (first : Seq) (resolved : Vector Epoch 4)

/-- A word of a written header. -/
theorem wordAt_segmentHeaderBytes {k : Nat} (hk : k < 16) :
    wordAt (segmentHeaderBytes g seg active first resolved) k =
      (segmentHeaderFields g seg active first resolved ++
        [checkWord (segmentHeaderFields g seg active first resolved)]).getD k 0 :=
  wordAt_of_words (words_segmentHeaderBytes ..) hk

theorem length_segmentHeaderBytes : (segmentHeaderBytes g seg active first resolved).length = 64 := by
  rw [segmentHeaderBytes, length_flatten]
  rfl

/-- The words as R74 lists them, the unnamed bits 0. -/
theorem words_segmentHeaderBytes_eq (hseg : seg < 64) (hfirst : first < 2 ^ 48) :
    (List.range 16).map (wordAt (segmentHeaderBytes g seg active first resolved)) =
      [0x4A455348, g.identity,
        BitVec.ofNat 32 (seg + 2 ^ 8 * g.sizeCode.toNat + if active then 2 ^ 16 else 2 ^ 17),
        BitVec.ofNat 32 first, BitVec.ofNat 32 (first / 2 ^ 32), getAt resolved 0, getAt resolved 1, getAt resolved 2,
        getAt resolved 3, 0, 0, 0, 0, 0, 0, checkWord (segmentHeaderFields g seg active first resolved)] := by
  rw [words_segmentHeaderBytes, segmentHeaderFields, segmentWord2_eq _ _ _ hseg,
    zeroExtend_ofNat_sixteen (upper48_lt hfirst)]
  rfl

/-- It is valid for its own segment and identity (R77). -/
theorem segmentHeaderBytes_valid (hseg : seg < 64) :
    segmentHeaderValid g seg (segmentHeaderBytes g seg active first resolved) = true := by
  have hcovered : (List.range 15).map (wordAt (segmentHeaderBytes g seg active first resolved)) =
      segmentHeaderFields g seg active first resolved := by
    have h := congrArg (List.take 15) (words_segmentHeaderBytes g seg active first resolved)
    rwa [← List.map_take, List.take_range] at h
  have hindex : ((wordAt (segmentHeaderBytes g seg active first resolved) 2).extractLsb' 0 6).toNat = seg := by
    rw [wordAt_segmentHeaderBytes g seg active first resolved (by decide)]
    show ((0#14 ++ BitVec.ofBool (!active) ++ BitVec.ofBool active ++ 0#5 ++ g.sizeCode ++ 0#2 ++
      BitVec.ofNat 6 seg : Word).extractLsb' 0 6).toNat = seg
    rw [toNat_field, toNat_append_bits, BitVec.toNat_ofNat]
    omega
  simp only [segmentHeaderValid, hcovered, Bool.and_eq_true, beq_iff_eq]
  refine ⟨⟨⟨?_, ?_⟩, hindex⟩, ?_⟩ <;> rw [wordAt_segmentHeaderBytes g seg active first resolved (by decide)] <;> rfl

/-- It is a used header when it was written ACTIVE (R76). -/
theorem segmentHeaderBytes_used : segmentHeaderUsed (segmentHeaderBytes g seg active first resolved) = active := by
  rw [segmentHeaderUsed, wordAt_segmentHeaderBytes g seg active first resolved (by decide)]
  show ((0#14 ++ BitVec.ofBool (!active) ++ BitVec.ofBool active ++ 0#5 ++ g.sizeCode ++ 0#2 ++
      BitVec.ofNat 6 seg : Word).getLsbD 16 && !(0#14 ++ BitVec.ofBool (!active) ++ BitVec.ofBool active ++ 0#5 ++
      g.sizeCode ++ 0#2 ++ BitVec.ofNat 6 seg : Word).getLsbD 17) = active
  simp only [BitVec.getLsbD_append]
  cases active <;> rfl

/-- It names the first sequence number it was given (R74). -/
theorem segmentHeaderBytes_first (hfirst : first < 2 ^ 48) :
    segmentHeaderFirst (segmentHeaderBytes g seg active first resolved) = first := by
  rw [segmentHeaderFirst, wordAt_segmentHeaderBytes g seg active first resolved (by decide),
    wordAt_segmentHeaderBytes g seg active first resolved (by decide)]
  show (BitVec.ofNat 32 first).toNat +
    2 ^ 32 * (((BitVec.ofNat 16 (first / 2 ^ 32)).zeroExtend 32).extractLsb' 0 16).toNat = first
  rw [zeroExtend_ofNat_sixteen (upper48_lt hfirst), toNat_field, BitVec.toNat_ofNat, BitVec.toNat_ofNat]
  exact split48_of_word first hfirst

/-- It carries each channel's R_c (R74). -/
theorem segmentHeaderBytes_resolved (c : Chan) :
    segmentHeaderResolved (segmentHeaderBytes g seg active first resolved) c = getAt resolved c := by
  rw [segmentHeaderResolved, wordAt_segmentHeaderBytes g seg active first resolved (by omega)]
  rcases (by revert c; decide : c = 0 ∨ c = 1 ∨ c = 2 ∨ c = 3) with rfl | rfl | rfl | rfl <;> rfl

end

/-- Settles O58: the bytes give back the words they were made of, and the test is R77's. -/
theorem segmentHeaderReadsBack : Obligations.SegmentHeaderReadsBack := by
  refine ⟨?_, fun g i bs => ⟨segmentHeaderValid_iff g i bs, segmentHeaderUsed_iff bs⟩, fun _ _ => ⟨rfl, rfl⟩,
    fun _ _ _ => ⟨rfl, rfl, rfl⟩⟩
  rintro g seg active first resolved _ hseg hfirst rfl
  exact ⟨length_segmentHeaderBytes .., segmentHeaderBytes_valid g seg active first resolved hseg,
    segmentHeaderBytes_used .., segmentHeaderBytes_first g seg active first resolved hfirst,
    segmentHeaderBytes_resolved g seg active first resolved, _,
    words_segmentHeaderBytes_eq g seg active first resolved hseg hfirst⟩

end Sys2Proof.Proofs

/-! The placement of a record: what the writer accepts, R94's table, and the record at the first free slot (R79, R92 to R95, R99,
R103, R110, R154). -/

namespace Sys2Proof.Proofs

open Sys2Proof.Machine Sys2Proof.Laws

/-! ### What is taken, and where (R92, R94, R103, R110) -/

theorem accepts_iff (p : Part) (k : RecordKind) : accepts p k = true ↔
    p.command.busy ≠ .softReset ∧ (p.writer.state = .running ∨ (p.writer.state = .suspended ∧ k ≠ .undo)) := by
  simp [accepts, draining]

theorem activeEntry_iff (w : Writer) (i : Nat) (e : SegEntry) :
    activeEntry w = some (i, e) ↔ w.active = some i ∧ w.table[i]? = some e := by
  unfold activeEntry
  cases w.active with
  | none => simp
  | some a =>
    simp only [Option.map_eq_some_iff, Prod.mk.injEq, Option.some.injEq]
    constructor
    · rintro ⟨_, htable, rfl, rfl⟩
      exact ⟨rfl, htable⟩
    · rintro ⟨rfl, htable⟩
      exact ⟨e, htable, rfl, rfl⟩

/-- The FREE segments counted as a list. -/
theorem freeCount_eq (w : Writer) : freeCount w = (w.table.filter fun x => x.state == .free).length :=
  List.countP_eq_length_filter

/-- The second column of R94's table. -/
theorem fitsActive_iff {w : Writer} {i : Nat} {e : SegEntry} (g : Geometry) (k : RecordKind)
    (h : activeEntry w = some (i, e)) : fitsActive g w k = true ↔ match k with
      | .undo => 3 ≤ slotsFree g e ∧ (freeCount w = 0 → 7 ≤ slotsFree g e)
      | .commit | .abort => 1 ≤ slotsFree g e
      | .torn => 1 ≤ slotsFree g e ∧ (freeCount w = 0 → 5 ≤ slotsFree g e)
      | .pad => False := by
  unfold fitsActive
  rw [h]
  cases k
  case undo | torn =>
    simp only [Bool.and_eq_true, Bool.or_eq_true, decide_eq_true_eq, bne_iff_ne, ne_eq, Decidable.imp_iff_not_or]
    rfl
  all_goals simp

/-- The third column of R94's table. -/
theorem mayOpen_iff (w : Writer) (k : RecordKind) : mayOpen w k = true ↔ match k with
    | .undo => 2 ≤ freeCount w
    | .commit | .abort | .torn => 1 ≤ freeCount w
    | .pad => False := by
  cases k <;> simp [mayOpen]

theorem rowAllows_iff {p : Part} {i : Nat} {e : SegEntry} (k : RecordKind) (h : activeEntry p.writer = some (i, e)) :
    rowAllows p k = true ↔ fitsActive p.classifier.geometry p.writer k = true ∨ mayOpen p.writer k = true := by
  simp [rowAllows, h]

/-! ### What a placement request does (R94, R97, R98) -/

section
variable {p : Part} {r : PlaceReq} {i : Nat} {e : SegEntry}

/-- A record that is not taken, or that no column allows, is not placed. -/
theorem place_nothing (h : accepts p r.kind = false ∨ rowAllows p r.kind = false) : place p r = (p, none) := by
  unfold place
  rcases h with h | h
  · simp [h]
  · cases ha : activeEntry p.writer with
    | none => simp
    | some x =>
      have hno : fitsActive p.classifier.geometry p.writer r.kind = false ∧ mayOpen p.writer r.kind = false := by
        simpa [rowAllows, ha] using h
      simp [hno]

/-- A record that fits is put into the ACTIVE segment. -/
theorem place_fitting (hacc : accepts p r.kind = true) (hactive : activeEntry p.writer = some (i, e))
    (hfits : fitsActive p.classifier.geometry p.writer r.kind = true) (hnext : p.writer.next ≤ 281474976710654) :
    place p r = (putRecord p i e r, some p.writer.next) := by
  have hnext' : p.writer.next ≤ Config.maxSeq := hnext
  simp only [place, hacc, hactive, hfits, hnext', if_true]

end

/-! ### The record's write (R79, R99, R154) -/

/-- The journal write of a record put at the first free slot of a segment (R79, R93, R99). -/
def recordWrite (p : Part) (i : Nat) (e : SegEntry) (r : PlaceReq) : JournalWrite :=
  { isHeader := false, seq := p.writer.next, seg := i,
    addr := BitVec.ofNat 40 (slotAddr p.classifier.geometry i e.used),
    bytes := recordBytes p.classifier.geometry.identity r p.writer.next
      (lengthFieldOf r.kind (slotsFree p.classifier.geometry e)) e.lastLen,
    presented := !headerPending p.writer.journal i,
    unanswered := (blockPieces (slotAddr p.classifier.geometry i e.used)
      (recordBytes p.classifier.geometry.identity r p.writer.next
        (lengthFieldOf r.kind (slotsFree p.classifier.geometry e)) e.lastLen).length).length,
    failed := false }

/-- Putting a record as one record update: its number, its segment's entry, its write and the requests presented. -/
theorem putRecord_eq (p : Part) (i : Nat) (e : SegEntry) (r : PlaceReq) : putRecord p i e r =
    { p with
      writer := { p.writer with
        next := p.writer.next + 1,
        table := p.writer.table.set i { e with
          used := e.used + recordSlots r.kind (slotsFree p.classifier.geometry e),
          lastLen := lengthFieldOf r.kind (slotsFree p.classifier.geometry e),
          mask := e.mask ||| (if r.kind = .undo ∨ r.kind = .torn then maskBit r.channel else 0) },
        journal := p.writer.journal ++ [recordWrite p i e r] },
      arbiter := { p.arbiter with
        waiting := p.arbiter.waiting ++
          (if (recordWrite p i e r).presented then recordRequests (recordWrite p i e r) else []) } } := by
  cases hp : headerPending p.writer.journal i <;> cases hk : r.kind <;>
    simp [putRecord, recordWrite, handOver, hp, hk]

/-- A record that is no PAD takes 3 slots or 1, and its length field says so (R74). -/
theorem recordSlots_of_ne_pad {k : RecordKind} (h : k ≠ .pad) (rest : Nat) :
    recordSlots k rest = if k = .undo then 3 else 1 := by
  cases k
  case pad => exact absurd rfl h
  all_goals rfl

theorem lengthFieldOf_of_ne_pad {k : RecordKind} (h : k ≠ .pad) (rest : Nat) :
    lengthFieldOf k rest = if k = .undo then 3 else 1 := by
  cases k
  case pad => exact absurd rfl h
  all_goals rfl

/-- No PAD is placed by R94's table. -/
theorem ne_pad_of_fitsActive {g : Geometry} {w : Writer} {k : RecordKind} (h : fitsActive g w k = true) : k ≠ .pad := by
  rintro rfl
  unfold fitsActive at h
  split at h <;> simp at h

/-- A record's write is one request, or two where it crosses a block boundary (R154). -/
theorem recordRequests_eq (w : JournalWrite) (h : 0 < w.bytes.length) : recordRequests w =
    if w.addr.toNat / 256 = (w.addr.toNat + w.bytes.length - 1) / 256 then
      [engineWrite (.record w.seq) w.addr.toNat w.bytes]
    else [engineWrite (.record w.seq) w.addr.toNat (w.bytes.take (256 - w.addr.toNat % 256)),
          engineWrite (.record w.seq) (w.addr.toNat + (256 - w.addr.toNat % 256))
            (w.bytes.drop (256 - w.addr.toNat % 256))] := by
  rw [recordRequests, writePieces, blockPieces, Nat.add_sub_assoc h, blockNumber, blockNumber]
  by_cases hb : w.addr.toNat / 256 = (w.addr.toNat + (w.bytes.length - 1)) / 256
  · rw [if_pos hb, if_pos hb]
    simp
  · rw [if_neg hb, if_neg hb]
    simp [List.take_of_length_le]

/-- A transfer has two pieces exactly where it crosses a block boundary (R154). -/
theorem length_blockPieces (a len : Nat) :
    (blockPieces a len).length = if a / 256 = (a + (len - 1)) / 256 then 1 else 2 := by
  unfold blockPieces blockNumber
  split <;> rfl

/-- The bytes of a record are its header slot, and the image of an UNDO record behind it (R80 to R84). -/
theorem recordBytes_eq (identity : Word) (r : PlaceReq) (n : Seq) (len back : Nat) : recordBytes identity r n len back =
    (placedHeader identity r n len back).bytes ++ (if r.kind = .undo then r.image else []) := by
  unfold recordBytes
  cases r.kind <;> simp

theorem headerPending_iff (js : List JournalWrite) (i : Nat) : headerPending js i = true ↔
    ∃ j ∈ js, j.isHeader = true ∧ j.seg = i ∧ (j.failed = true ∨ j.unanswered ≠ 0) := by
  simp [headerPending, and_assoc]

/-- A channel's bit in a segment's mask (R93). -/
theorem getLsbD_maskBit (c : Chan) (i : Nat) : (maskBit c).getLsbD i = decide (i = c.val) := by
  have hc := c.isLt
  by_cases h : i = c.val
  · simp [maskBit, h]
  · by_cases hi : i < 4
    · revert c; interval_cases i <;> decide
    · simp [h, BitVec.getLsbD_of_ge (maskBit c) i (by omega)]

/-- Settles O17: the conditions one by one; a record that fits is put, and what is put is one record update. -/
theorem recordTakesNextNumber : Obligations.RecordTakesNextNumber := by
  refine ⟨accepts_iff, fun p => activeEntry_iff p.writer, fun p k i e left free hactive hleft hfree => ?_,
    fun p r => place_nothing, ?_, fun p r i e hacc hactive hfits hnext => ?_, headerPending_iff, recordBytes_eq,
    length_blockPieces, getLsbD_maskBit⟩
  · have hleft' : slotsFree p.classifier.geometry e = left := hleft.symm
    have hfree' : freeCount p.writer = free := (freeCount_eq p.writer).trans hfree.symm
    have hfits := fitsActive_iff p.classifier.geometry k hactive
    have hopen := mayOpen_iff p.writer k
    rw [hleft', hfree'] at hfits
    rw [hfree'] at hopen
    exact ⟨by cases k <;> exact hfits, by cases k <;> exact hopen, rowAllows_iff k hactive⟩
  · rintro w _ rfl hlen
    exact recordRequests_eq w hlen
  · have hpad := ne_pad_of_fitsActive hfits
    have hplace := place_fitting hacc hactive hfits hnext
    refine ⟨recordWrite p i e r, ⟨rfl, rfl, rfl, rfl, rfl, ?_, rfl, rfl⟩, ?_, hplace⟩
    · rw [recordWrite, lengthFieldOf_of_ne_pad hpad]
    · rw [hplace, putRecord_eq, lengthFieldOf_of_ne_pad hpad, recordSlots_of_ne_pad hpad]

end Sys2Proof.Proofs

/-! The opening of a segment as one record update: the PAD, the closing, the search, the new entry and its header (R84, R94, R97,
R99, R104). -/

namespace Sys2Proof.Proofs

open Sys2Proof.Machine Sys2Proof.Laws

/-! ### The closing (R97 step 2, R104) -/

/-- Changing an item that is there is setting it. -/
theorem modify_of_getElem? {α : Type} {l : List α} {i : Nat} {a : α} (h : l[i]? = some a) (f : α → α) :
    l.modify i f = l.set i (f a) := by
  rw [List.modify_eq_set_getElem?, h]
  rfl

/-- What a segment with this mask becomes as it is closed: FREE, or HELD while RETAIN is set, with no channel in it (R104). -/
def closedState (retain : Bool) (mask : BitVec 4) : SegState :=
  if mask = 0 then if retain then .held else .free else .closed

/-- CLOSED with an empty mask, of the entry that is there (R104). -/
theorem reclaimable_of_getElem? {w : Writer} {i : Nat} {e : SegEntry} (h : w.table[i]? = some e) :
    reclaimable w i = (e.state == .closed && e.mask == 0) := by
  simp [reclaimable, h]

/-- A reclaim as one record update. -/
theorem reclaim_eq {p : Part} {i : Nat} {e : SegEntry} (h : p.writer.table[i]? = some e) : reclaim p i =
    { p with
      writer := { p.writer with
        table := p.writer.table.set i { e with state := if p.writer.retain then .held else .free } },
      events := { p.events with
        flags := if p.writer.retain then p.events.flags ||| eventMask .segmentHeld else p.events.flags } } := by
  cases hr : p.writer.retain <;> simp [reclaim, raiseEvent, modify_of_getElem? h, hr]

/-- The closing of a segment as one record update. -/
theorem closeSegment_eq {p : Part} {i : Nat} {e : SegEntry} (h : p.writer.table[i]? = some e) : closeSegment p i =
    { p with
      writer := { p.writer with
        table := p.writer.table.set i { e with state := closedState p.writer.retain e.mask } },
      events := { p.events with
        flags := if e.mask = 0 ∧ p.writer.retain = true then p.events.flags ||| eventMask .segmentHeld
          else p.events.flags } } := by
  have hi : i < p.writer.table.length := (List.getElem?_eq_some_iff.mp h).1
  have hset : (p.writer.table.set i { e with state := .closed })[i]? = some { e with state := .closed } := by simp [hi]
  unfold closeSegment closedState
  dsimp only
  rw [modify_of_getElem? h, reclaimable_of_getElem? hset]
  by_cases hm : e.mask = 0
  · rw [if_pos (by simp [hm]), reclaim_eq hset]
    simp only [List.set_set, hm, true_and, if_true]
  · rw [if_neg (by simpa using hm)]
    simp only [hm, false_and, if_false]

/-! ### The PAD (R97 step 1, R84) -/

/-- The part once the PAD covers what is left of the ACTIVE segment, when anything is left. -/
def padded (p : Part) (i : Nat) (e : SegEntry) : Part :=
  if slotsFree p.classifier.geometry e = 0 then p else putRecord p i e padRequest

/-- The entry of the segment then. -/
def paddedEntry (g : Geometry) (e : SegEntry) : SegEntry :=
  if e.used < slotsPerSegment g then
    { e with used := e.used + (slotsPerSegment g - e.used),
             lastLen := if slotsPerSegment g - e.used ≤ 255 then slotsPerSegment g - e.used else 0 }
  else e

theorem slotsFree_eq_zero_iff (g : Geometry) (e : SegEntry) : slotsFree g e = 0 ↔ ¬ e.used < slotsPerSegment g := by
  rw [slotsFree]
  omega

/-- The PAD as one record update. -/
theorem padded_eq {p : Part} {i : Nat} {e : SegEntry} (h : p.writer.table[i]? = some e) : padded p i e =
    { p with
      writer := { p.writer with
        next := p.writer.next + (if e.used < slotsPerSegment p.classifier.geometry then 1 else 0),
        table := p.writer.table.set i (paddedEntry p.classifier.geometry e),
        journal := p.writer.journal ++
          (if e.used < slotsPerSegment p.classifier.geometry then [recordWrite p i e padRequest] else []) },
      arbiter := { p.arbiter with
        waiting := p.arbiter.waiting ++
          (if e.used < slotsPerSegment p.classifier.geometry ∧ (recordWrite p i e padRequest).presented = true then
            recordRequests (recordWrite p i e padRequest) else []) } } := by
  unfold padded paddedEntry
  by_cases hroom : e.used < slotsPerSegment p.classifier.geometry
  · rw [if_neg (mt (slotsFree_eq_zero_iff _ _).mp (not_not.mpr hroom)), putRecord_eq]
    have hkind : padRequest.kind = .pad := rfl
    simp [hroom, hkind, recordSlots, lengthFieldOf, slotsFree]
  · rw [if_pos ((slotsFree_eq_zero_iff _ _).mpr hroom)]
    have hsame : p.writer.table.set i e = p.writer.table := by
      obtain ⟨hi, hget⟩ := List.getElem?_eq_some_iff.mp h
      rw [← hget, List.set_getElem_self hi]
    simp [hroom, hsame]

/-! ### The opening (R97) -/

/-- Steps 1 and 2 as one record update: the PAD and the closing. -/
theorem closeSegment_padded {p : Part} {i : Nat} {e : SegEntry} (h : p.writer.table[i]? = some e) :
    closeSegment (padded p i e) i = { p with
      writer := { p.writer with
        next := p.writer.next + (if e.used < slotsPerSegment p.classifier.geometry then 1 else 0),
        table := p.writer.table.set i
          (if e.used < slotsPerSegment p.classifier.geometry then
            { e with state := closedState p.writer.retain e.mask,
                     used := e.used + (slotsPerSegment p.classifier.geometry - e.used),
                     lastLen := if slotsPerSegment p.classifier.geometry - e.used ≤ 255
                       then slotsPerSegment p.classifier.geometry - e.used else 0 }
          else { e with state := closedState p.writer.retain e.mask }),
        journal := p.writer.journal ++
          (if e.used < slotsPerSegment p.classifier.geometry then [recordWrite p i e padRequest] else []) },
      arbiter := { p.arbiter with
        waiting := p.arbiter.waiting ++
          (if e.used < slotsPerSegment p.classifier.geometry ∧ (recordWrite p i e padRequest).presented = true then
            recordRequests (recordWrite p i e padRequest) else []) },
      events := { p.events with
        flags := if e.mask = 0 ∧ p.writer.retain = true then p.events.flags ||| eventMask .segmentHeld
          else p.events.flags } } := by
  have hi : i < p.writer.table.length := (List.getElem?_eq_some_iff.mp h).1
  have hentry : (padded p i e).writer.table[i]? = some (paddedEntry p.classifier.geometry e) := by
    simp [padded_eq h, hi]
  rw [closeSegment_eq hentry, padded_eq h]
  unfold paddedEntry
  split <;> simp only [List.set_set]

theorem openSegment_of_findFree {p u : Part} {i j : Nat} {e : SegEntry} (hu : closeSegment (padded p i e) i = u)
    (hj : findFree u.writer.table (i + 1) = some j) : openSegment p i e = activate u j := by
  subst hu
  unfold Machine.openSegment
  dsimp only
  rw [← padded, hj]

/-- A record that does not fit but may open a segment is put into the new one (R94). -/
theorem place_opening {p q : Part} {r : PlaceReq} {i j : Nat} {e f : SegEntry} (hacc : accepts p r.kind = true)
    (hactive : activeEntry p.writer = some (i, e)) (hfits : fitsActive p.classifier.geometry p.writer r.kind = false)
    (hopen : mayOpen p.writer r.kind = true)
    (hnext : p.writer.next + (if e.used < slotsPerSegment p.classifier.geometry then 1 else 0) ≤ 281474976710654)
    (hq : openSegment p i e = q) (hf : activeEntry q.writer = some (j, f)) :
    place p r = (putRecord q j f r, some q.writer.next) := by
  have hpads : (if slotsFree p.classifier.geometry e = 0 then 0 else 1) =
      if e.used < slotsPerSegment p.classifier.geometry then 1 else 0 := by
    rw [if_congr (slotsFree_eq_zero_iff _ _) rfl rfl, ite_not]
  have hnext' : p.writer.next + (if slotsFree p.classifier.geometry e = 0 then 0 else 1) ≤ Config.maxSeq := by
    rw [hpads]
    exact hnext
  unfold place
  simp only [hacc, hactive, hfits, hopen, hnext', hq, hf, if_true, Bool.false_eq_true, if_false]

/-- Settles O18: the PAD, the closing and the new entry are each one record update, and their order is R97's. -/
theorem segmentIsOpened : Obligations.SegmentIsOpened := by
  refine ⟨rfl, ?_⟩
  rintro p q i d j e g pad left table n padBytes bytes rfl hi rfl rfl rfl rfl rfl hd rfl hfree hbefore rfl rfl
  have hu := closeSegment_padded hi
  have hopened := openSegment_of_findFree hu (findFree_eq hd hfree hbefore)
  refine ⟨hopened, fun r hacc hactive hfits hopen hnext => ?_⟩
  exact place_opening hacc ((activeEntry_iff _ _ _).mpr ⟨hactive, hi⟩) hfits hopen hnext hopened
    ((activeEntry_iff _ _ _).mpr ⟨rfl, List.getElem?_set_self (Nat.mod_lt _ (Nat.zero_lt_of_lt hd))⟩)

end Sys2Proof.Proofs

/-! SCAN_READ_ANSWERED: what recovery does with the answer to a read of SCANNING, and the segment headers it reads (R74 to R77,
R133, R134, R140). -/

namespace Sys2Proof.Proofs

open Sys2Proof.Machine Sys2Proof.Laws

/-! ### Recovery's answers while it runs (R133, R140) -/

/-- Recovery ends in RECOVERY_FAILED, as a record (R140). -/
theorem recoveryFails_eq {p : Part} (h : p.command.busy = .recover) (why : FailureReason) (x : FaultPlace) :
    recoveryFails p why x = { p with
      restore := { p.restore with
        recovery := .failed, lastFailure := why, stage := .idle, left := [],
        report := { p.restore.report with outcome := .failed, reason := why, faultSegment := x.seg, faultSeq := x.seq,
                                          faultLine := x.line, secondSegment := x.second } },
      command := { busy := .none, last := { command := .recover, result := .failed, reason := why.asReason,
                                            detail := .none, overlap := 0 } },
      events := { p.events with flags := p.events.flags ||| eventMask .recoveryFailed } } := by
  have hname : busyName p = .recover := by simp only [busyName, h]
  rw [← hname]
  rfl

section
variable {p : Part} {t : DTag} {r : DownReq} {k s slot : Nat} {n : Seq} {ps : List Piece} (w : List Instr)
  (hi : getAt p.arbiter.issued t = some r) (hr : r.purpose = .recovery k)
  (hb : p.command.busy = .recover) (hf : p.power.frozen = false)

/-- While RECOVER runs unfrozen an answer takes its course. -/
theorem unlessStopped_recovering (hb : p.command.busy = .recover) (hf : p.power.frozen = false) (t : DTag) (go : Part) :
    unlessStopped (freeTag p t) go = go :=
  unlessStopped_eq (p := freeTag p t) (by simp [hb]) hf go

include hi hr hb hf

/-- The read of a segment header is answered DONE (R133). -/
theorem exec_scanHeader_done (hs : p.restore.stage = .scanHeader s) (data : List Byte) :
    exec (.scanReadAnswered t (.done data)) ⟨p, w⟩ = .next ⟨scanHeaderRead (freeTag p t) s data, w⟩ := by
  show Host.Outcome.next (State.mk (scanRow p t _) w) = _
  simp only [scanRow, recoveryPieceOf_eq hi hr, hs, scanAnswered, freeTag_restore, unlessStopped_recovering hb hf]

/-- The read of a header slot is answered DONE (R133). -/
theorem exec_scanSlot_done (hs : p.restore.stage = .scanSlot s slot n) (data : List Byte) :
    exec (.scanReadAnswered t (.done data)) ⟨p, w⟩ = .next ⟨scanSlotRead (freeTag p t) s slot n data, w⟩ := by
  show Host.Outcome.next (State.mk (scanRow p t _) w) = _
  simp only [scanRow, recoveryPieceOf_eq hi hr, hs, scanAnswered, freeTag_restore, unlessStopped_recovering hb hf]

/-- A piece of the read of a whole record is answered DONE (R133, R154). -/
theorem exec_scanRecord_done (hs : p.restore.stage = .scanRecord s slot n ps) (data : List Byte) :
    exec (.scanReadAnswered t (.done data)) ⟨p, w⟩ =
      .next ⟨if allAnswered (ps.set k (.done data)) then
          scanWholeRead (freeTag p t) s slot n (gatheredData (ps.set k (.done data)))
        else scanPieceRead (freeTag p t) s slot n (ps.set k (.done data)) (k + 1), w⟩ := by
  show Host.Outcome.next (State.mk (scanRow p t _) w) = _
  simp only [scanRow, recoveryPieceOf_eq hi hr, hs, scanPieceAnswered, unlessStopped_recovering hb hf]

/-- Any read of SCANNING answered FAILED ends recovery with READ_FAULT and the segment (R140). -/
theorem exec_scan_failed (hs : p.restore.stage = .scanHeader s ∨ p.restore.stage = .scanSlot s slot n ∨
      ∃ ps, p.restore.stage = .scanRecord s slot n ps) :
    exec (.scanReadAnswered t .failed) ⟨p, w⟩ =
      .next ⟨recoveryFails (freeTag p t) .readFault (atSegment s), w⟩ := by
  show Host.Outcome.next (State.mk (scanRow p t _) w) = _
  rcases hs with hs | hs | ⟨_, hs⟩ <;>
    simp only [scanRow, recoveryPieceOf_eq hi hr, hs, scanAnswered, scanPieceAnswered, freeTag_restore,
      unlessStopped_recovering hb hf]

end

/-- The part with other recovery tables (R131). -/
def withTables (p : Part) (tb : RecoveryTables) : Part := { p with restore := { p.restore with tables := tb } }

/-! ### A segment's header (R76, R77, R133, R134) -/

section
variable {p : Part} {s : Nat} {bs : List Byte}

/-- A header that fails its test leaves the segment INVALID. -/
theorem scanHeaderRead_invalid (h : segmentHeaderValid p.classifier.geometry s bs = false) :
    scanHeaderRead p s bs = scanAfter (withTables p { p.restore.tables with
      segments := p.restore.tables.segments.modify s fun x => { x with status := .invalid } }) s := by
  simp only [scanHeaderRead, h, Bool.false_eq_true, if_false, modScan, withTables]

/-- A valid header that is not a used one leaves it EMPTY, and counts. -/
theorem scanHeaderRead_empty (h : segmentHeaderValid p.classifier.geometry s bs = true)
    (hu : segmentHeaderUsed bs = false) :
    scanHeaderRead p s bs = scanAfter (withTables p { p.restore.tables with
      segments := p.restore.tables.segments.modify s fun x => { x with status := .empty },
      validHeaders := p.restore.tables.validHeaders + 1 }) s := by
  simp only [scanHeaderRead, h, hu, Bool.false_eq_true, if_false, if_true, modScan, withTables]

/-- The header bounds of the channels raised to what a header carries (R134). -/
def raisedBounds (chs : Vector ChannelScan 4) (bs : List Byte) : Vector ChannelScan 4 :=
  chs.mapFinIdx fun i x h => { x with headerBound := maxEpoch x.headerBound (segmentHeaderResolved bs ⟨i, h⟩) }

theorem getAt_raisedBounds (chs : Vector ChannelScan 4) (bs : List Byte) (c : Chan) :
    getAt (raisedBounds chs bs) c = { getAt chs c with
      headerBound := if (getAt chs c).headerBound.toNat ≤ (segmentHeaderResolved bs c).toNat
        then segmentHeaderResolved bs c else (getAt chs c).headerBound } := by
  simp only [raisedBounds, getAt, Vector.getElem_mapFinIdx, maxEpoch]
  rfl

/-- A USED header is taken into the tables, and the scan of its segment begins at slot 2. -/
theorem scanHeaderRead_used (h : segmentHeaderValid p.classifier.geometry s bs = true)
    (hu : segmentHeaderUsed bs = true) :
    scanHeaderRead p s bs = scanAt (withTables p { p.restore.tables with
      segments := p.restore.tables.segments.modify s fun x =>
        { x with status := .used, first := segmentHeaderFirst bs },
      channels := raisedBounds p.restore.tables.channels bs,
      validHeaders := p.restore.tables.validHeaders + 1, usedHeaders := p.restore.tables.usedHeaders + 1,
      highestSeq := max p.restore.tables.highestSeq (segmentHeaderFirst bs - 1) }) s 2 (segmentHeaderFirst bs) := by
  simp only [scanHeaderRead, h, hu, if_true, acceptHeader, foldl_modChannelScan, modScan, sawSequence]
  rfl

end

/-- Where there is a usable segment above, its header is read next (R133). -/
theorem scanAfter_next {p : Part} {s j : Nat}
    (h : (usableSegments p.classifier.geometry).find? (fun x => decide (s < x)) = some j) :
    scanAfter p s = recoveryReads p (.scanHeader j)
      [engineRead (.recovery 0) (segmentAddr p.classifier.geometry j) 64] := by
  simp only [scanAfter, h]

/-- The scan goes on at a slot of the segment (R133). -/
theorem scanAt_within {p : Part} {slot : Nat} (s : Nat) (n : Seq) (h : slot < slotsPerSegment p.classifier.geometry) :
    scanAt p s slot n = recoveryReads p (.scanSlot s slot n)
      [engineRead (.recovery 0) (slotAddr p.classifier.geometry s slot) 32] := by
  simp only [scanAt, h, if_true]

/-- Settles O29: the header is taken by its test, and the scan goes on to the next segment or into this one. -/
theorem scanHeaderIsTaken : Obligations.ScanHeaderIsTaken := by
  rintro p w t r k s _ _ hi hr hs hb hf rfl rfl
  refine ⟨fun data j hj hunused => ?_, fun data hv hu hslots => ?_, ?_⟩
  · rw [exec_scanHeader_done w hi hr hb hf hs]
    cases hv : segmentHeaderValid p.classifier.geometry s data with
    | false =>
      rw [scanHeaderRead_invalid (p := freeTag p t) hv, scanAfter_next (p := withTables (freeTag p t) _) hj]
      rfl
    | true =>
      have hu : segmentHeaderUsed data = false := hunused.resolve_left (by simp [hv])
      rw [scanHeaderRead_empty (p := freeTag p t) hv hu, scanAfter_next (p := withTables (freeTag p t) _) hj]
      rfl
  · refine ⟨raisedBounds p.restore.tables.channels data, getAt_raisedBounds _ data, ?_⟩
    rw [exec_scanHeader_done w hi hr hb hf hs, scanHeaderRead_used (p := freeTag p t) hv hu,
      scanAt_within (p := withTables (freeTag p t) _) _ _ hslots]
    rfl
  · rw [exec_scan_failed (slot := 0) (n := 0) w hi hr hb hf (.inl hs), recoveryFails_eq (p := freeTag p t) hb]
    rfl

end Sys2Proof.Proofs

/-! The forward scan of a segment: the read of a record, the accepted record and the end of the scan (R86, R87, R131, R133, R134,
R140, R154). -/

namespace Sys2Proof.Proofs

open Sys2Proof.Machine Sys2Proof.Laws

/-! ### The pieces of a transfer (R154) -/

/-- Every piece is answered DONE: none is waiting and none has failed. -/
theorem allAnswered_of_done {ps : List Piece} (h : ∀ y ∈ ps, ∃ d, y = .done d) : allAnswered ps = true := by
  simp only [allAnswered, List.all_eq_true]
  intro y hy
  obtain ⟨d, rfl⟩ := h y hy
  rfl

theorem anyFailed_of_done {ps : List Piece} (h : ∀ y ∈ ps, ∃ d, y = .done d) : anyFailed ps = false := by
  rw [anyFailed, List.contains_eq_mem, decide_eq_false_iff_not]
  intro hmem
  obtain ⟨d, hd⟩ := h _ hmem
  cases hd

theorem allAnswered_iff (ps : List Piece) : allAnswered ps = true ↔ Piece.waiting ∉ ps := by
  simp only [allAnswered, List.all_eq_true, bne_iff_ne, ne_eq]
  exact ⟨fun h hmem => h _ hmem rfl, fun h y hy hw => h (hw ▸ hy)⟩

/-- Some piece is not answered yet. -/
theorem allAnswered_eq_false_iff (ps : List Piece) : allAnswered ps = false ↔ Piece.waiting ∈ ps := by
  rw [← Bool.not_eq_true, allAnswered_iff, not_not]

theorem freshPieces_eq (a len : Nat) :
    freshPieces a len = List.replicate (if a / 256 = (a + (len - 1)) / 256 then 1 else 2) Piece.waiting := by
  rw [← length_blockPieces, freshPieces, List.map_const']

theorem gatheredData_eq (ps : List Piece) : gatheredData ps = (ps.map fun x => match x with
    | .done d => d
    | _ => []).flatten := by
  induction ps with
  | nil => rfl
  | cons y ps ih => cases y <;> simp [gatheredData, ih]

/-! ### The tables' items (R131, R134) -/

theorem raised_some (x e : Epoch) : raised x (some e) = some (if e.toNat ≤ x.toNat then x else e) := rfl

theorem newerEnd_eq (h : HeaderSlot) (old : Option EndRecord) [Decidable (∃ r, old = some r ∧ h.epoch.toNat < r.epoch.toNat)] :
    newerEnd h old =
      if ∃ r, old = some r ∧ h.epoch.toNat < r.epoch.toNat then old
      else some { isAbort := decide (h.kind = some .abort), epoch := h.epoch, torn := h.tornFlag, fault := h.faultFlag,
                  overflowed := h.overflowedFlag, undoCount := h.w4 } := by
  have hend : endRecordOf h =
      { isAbort := decide (h.kind = some .abort), epoch := h.epoch, torn := h.tornFlag, fault := h.faultFlag,
        overflowed := h.overflowedFlag, undoCount := h.w4 } := by
    rw [endRecordOf, beq_eq_decide]
  cases old with
  | none => simp [newerEnd, hend]
  | some r =>
    by_cases hle : r.epoch.toNat ≤ h.epoch.toNat
    · simp [newerEnd, hend, hle, Nat.not_lt.mpr hle]
    · simp [newerEnd, hle, Nat.lt_of_not_le hle]

/-- The tables' record of a channel once a record of a kind has been accepted (R134). -/
def channelAccepted (kind : RecordKind) (h : HeaderSlot) (y : ChannelScan) : ChannelScan :=
  match kind with
  | .undo => { y with highestSaved := raised h.epoch y.highestSaved }
  | .torn => { y with highestSaved := raised h.epoch y.highestSaved, highestTorn := raised h.epoch y.highestTorn }
  | .commit | .abort | .pad => { y with lastEnd := newerEnd h y.lastEnd }

/-- The tables' record of a segment then. -/
def segmentAccepted (kind : RecordKind) (h : HeaderSlot) (n : Seq) (slot : Nat) (x : SegmentScan) : SegmentScan :=
  { x with last := some (n, slot), accepted := x.accepted + 1,
           highest := if kind = .undo
             then setAt x.highest h.channel (raised h.epoch (getAt x.highest h.channel)) else x.highest }

/-- The tables once a record that is no PAD has been accepted at a slot (R134). -/
def tablesAccepted (tb : RecoveryTables) (s slot : Nat) (n : Seq) (kind : RecordKind) (h : HeaderSlot) : RecoveryTables :=
  { tb with segments := tb.segments.modify s (segmentAccepted kind h n slot),
            channels := setAt tb.channels h.channel (channelAccepted kind h (getAt tb.channels h.channel)),
            highestSeq := max tb.highestSeq n }

/-- The tables with the scan of a segment ended (R87). -/
def tablesEnded (tb : RecoveryTables) (s : Nat) (why : ScanEnd) : RecoveryTables :=
  { tb with segments := tb.segments.modify s fun x => { x with ended := some why } }

/-- The tables once a PAD has ended the scan of its segment (R84, R87). -/
def tablesPadded (tb : RecoveryTables) (s slot : Nat) (n : Seq) : RecoveryTables :=
  { tb with segments := tb.segments.modify s fun x =>
              { x with last := some (n, slot), accepted := x.accepted + 1, ended := some .pad },
            highestSeq := max tb.highestSeq n }

/-- The record accepted last fills its segment (R87). -/
theorem tablesEnded_accepted (tb : RecoveryTables) (s slot : Nat) (n : Seq) (kind : RecordKind) (h : HeaderSlot)
    (why : ScanEnd) : tablesEnded (tablesAccepted tb s slot n kind h) s why =
      { tablesAccepted tb s slot n kind h with
        segments := tb.segments.modify s fun x => { segmentAccepted kind h n slot x with ended := some why } } := by
  simp only [tablesEnded, tablesAccepted, modify_modify]
  rfl

section
variable {p : Part} {s slot : Nat} {n : Seq} {h : HeaderSlot}

/-- A record that is no PAD is accepted. -/
theorem acceptRecord_eq {kind : RecordKind} (hk : h.kind = some kind) (hpad : kind ≠ .pad) :
    acceptRecord p s slot h = withTables p (tablesAccepted p.restore.tables s slot h.seq kind h) := by
  unfold acceptRecord tablesAccepted
  rw [hk]
  cases kind
  case pad => exact absurd rfl hpad
  case undo =>
    simp only [modScan, modChannelScan, sawSequence, withTables, modify_modify]
    rfl
  all_goals rfl

theorem scanEnds_eq (why : ScanEnd) : scanEnds p s why = scanAfter (withTables p (tablesEnded p.restore.tables s why)) s :=
  rfl

/-- A record that fails the test ends the scan of its segment (R87). -/
theorem scanRecordTested_invalid :
    scanRecordTested p s slot n h false = scanAfter (withTables p (tablesEnded p.restore.tables s .invalid)) s := rfl

/-- A PAD ends it too, and is accepted (R84, R87). -/
theorem scanRecordTested_pad (hk : h.kind = some .pad) : scanRecordTested p s slot n h true =
    scanAfter (withTables p (tablesPadded p.restore.tables s slot h.seq)) s := by
  simp only [scanRecordTested, if_true, hk, acceptRecord, scanEnds, modScan, sawSequence, modify_modify]
  rfl

/-- After any other record the scan goes on behind it (R87). -/
theorem scanRecordTested_goesOn {kind : RecordKind} (hk : h.kind = some kind) (hpad : kind ≠ .pad) :
    scanRecordTested p s slot n h true =
      scanAt (withTables p (tablesAccepted p.restore.tables s slot h.seq kind h)) s
        (slot + (if kind = .undo then 3 else 1)) (n + 1) := by
  simp only [scanRecordTested, if_true, acceptRecord_eq hk hpad, hk]
  cases kind
  case pad => exact absurd rfl hpad
  all_goals rfl

/-- With no slot left the segment is FULL (R87). -/
theorem scanAt_full (h : slotsPerSegment p.classifier.geometry ≤ slot) :
    scanAt p s slot n = scanAfter (withTables p (tablesEnded p.restore.tables s .full)) s := by
  rw [scanAt, if_neg (Nat.not_lt.mpr h), scanEnds_eq]

end

/-! ### The read of a record (R133, R154) -/

/-- What SCANNING has read of a record at a slot: its header slot alone, or the whole of an UNDO record whose three slots fit
the segment; `k` is the piece that `data` answers. -/
def RecordRead (p : Part) (s slot : Nat) (n : Seq) (k : Nat) (data : List Byte) (h : HeaderSlot) (image : List Byte) : Prop :=
  (p.restore.stage = .scanSlot s slot n ∧ h = headerOfBytes data ∧ image = [] ∧
      ¬ (h.kind = some .undo ∧ slot + 3 ≤ slotsPerSegment p.classifier.geometry)) ∨
    (∃ ps bs, p.restore.stage = .scanRecord s slot n ps ∧ (∀ y ∈ ps.set k (.done data), ∃ d, y = .done d) ∧
      bs = gatheredData (ps.set k (.done data)) ∧ h = headerOfBytes bs ∧ image = bs.drop 32)

section
variable {p : Part} {t : DTag} {r : DownReq} {k s slot : Nat} {n : Seq} {h : HeaderSlot} {data image : List Byte}
  {ps : List Piece} (w : List Instr)
  (hi : getAt p.arbiter.issued t = some r) (hr : r.purpose = .recovery k)
  (hb : p.command.busy = .recover) (hf : p.power.frozen = false)
include hi hr hb hf

/-- An UNDO header that fits is followed by the read of the whole record, one piece at a time. -/
theorem exec_scanSlot_undo (hs : p.restore.stage = .scanSlot s slot n) (hk : (headerOfBytes data).kind = some .undo)
    (hfits : slot + 3 ≤ slotsPerSegment p.classifier.geometry) :
    exec (.scanReadAnswered t (.done data)) ⟨p, w⟩ =
      .next ⟨scanPieceRead (freeTag p t) s slot n (freshPieces (slotAddr p.classifier.geometry s slot) 96) 0, w⟩ := by
  rw [exec_scanSlot_done w hi hr hb hf hs]
  simp [scanSlotRead, hk, hfits]

/-- A record that has been read is tested (R86). -/
theorem exec_recordRead (hread : RecordRead p s slot n k data h image) :
    exec (.scanReadAnswered t (.done data)) ⟨p, w⟩ =
      .next ⟨scanRecordTested (freeTag p t) s slot n h
        (recordValid p.classifier.geometry.identity h image slot (slotsPerSegment p.classifier.geometry) n), w⟩ := by
  rcases hread with ⟨hs, rfl, rfl, hno⟩ | ⟨ps, _, hs, hdone, rfl, rfl, rfl⟩
  · rw [exec_scanSlot_done w hi hr hb hf hs]
    unfold scanSlotRead
    dsimp only
    rw [if_neg fun hfits => ?_]
    · rfl
    · obtain ⟨hk, hroom⟩ := Bool.and_eq_true_iff.mp hfits
      exact hno ⟨beq_iff_eq.mp hk, of_decide_eq_true hroom⟩
  · rw [exec_scanRecord_done w hi hr hb hf hs, if_pos (allAnswered_of_done hdone)]
    rfl

end

/-- The number of a record that passes its test is the expected one (R86). -/
theorem seq_of_recordValid {identity : Word} {h : HeaderSlot} {image : List Byte} {slot slots : Nat} {n : Seq}
    (hv : recordValid identity h image slot slots n = true) : h.seq = n :=
  ((recordValid_iff _ _ _ _ _ _).mp hv).2.1

/-- Settles O30: the read of a record, piece by piece, and the record by its test and kind. -/
theorem scanRecordIsTaken : Obligations.ScanRecordIsTaken := by
  refine ⟨?_, fun _ _ => ⟨rfl, rfl⟩, fun h old => newerEnd_eq h old, freshPieces_eq, gatheredData_eq⟩
  rintro p _ w t r k s slot n _ _ h data hi hr hb hf rfl rfl rfl
  refine ⟨?_, fun hs => ?_, fun ps hs hwaiting => ?_, fun image hread => ⟨fun j hj hends => ?_, ?_⟩⟩
  · rintro hs rfl hk hfits
    rw [exec_scanSlot_undo w hi hr hb hf hs hk hfits]
    rfl
  · rw [exec_scan_failed w hi hr hb hf (.inr hs), recoveryFails_eq (p := freeTag p t) hb]
    rfl
  · obtain ⟨y, hy, hyw⟩ := List.any_eq_true.mp hwaiting
    have hmem : Piece.waiting ∈ ps.set k (.done data) := beq_iff_eq.mp hyw ▸ hy
    rw [exec_scanRecord_done w hi hr hb hf hs, (allAnswered_eq_false_iff _).mpr hmem]
    rfl
  · rw [exec_recordRead w hi hr hb hf hread]
    cases hv : recordValid p.classifier.geometry.identity h image slot (slotsPerSegment p.classifier.geometry) n with
    | false =>
      rw [scanRecordTested_invalid, scanAfter_next (p := withTables (freeTag p t) _) hj]
      rfl
    | true =>
      have hpad : h.kind = some .pad := hends.resolve_left (by simp [hv])
      rw [scanRecordTested_pad hpad, seq_of_recordValid hv, scanAfter_next (p := withTables (freeTag p t) _) hj]
      rfl
  · rintro kind _ _ chs j hv hk hpad rfl hnext rfl hchs
    have hchs' : chs = setAt p.restore.tables.channels h.channel
        (channelAccepted kind h (getAt p.restore.tables.channels h.channel)) := by
      rw [hchs]
      cases kind <;> rfl
    rw [exec_recordRead w hi hr hb hf hread, hv, scanRecordTested_goesOn hk hpad, seq_of_recordValid hv, hchs']
    by_cases hroom : slot + (if kind = .undo then 3 else 1) < slotsPerSegment p.classifier.geometry
    · rw [scanAt_within (p := withTables (freeTag p t) _) _ _ hroom]
      simp only [hroom, if_true]
      rfl
    · rw [scanAt_full (p := withTables (freeTag p t) _) (Nat.not_lt.mp hroom),
        scanAfter_next (p := withTables (withTables (freeTag p t) _) _) (hnext.resolve_left hroom)]
      simp only [hroom, if_false, withTables, tablesEnded_accepted]
      rfl

end Sys2Proof.Proofs

/-! The end of the scan: the claims and the order of restoring, what the checks derive, and where recovery goes from there (R77, R87,
R131, R133 to R136, R138, R140). -/

namespace Sys2Proof.Proofs

open Sys2Proof.Machine Sys2Proof.Laws

/-! ### Epochs (R131, R135, R138) -/

theorem maxEpoch_toNat (a b : Epoch) : (maxEpoch a b).toNat = max a.toNat b.toNat := by
  unfold maxEpoch
  split <;> omega

theorem derivedResolved_toNat (t : ChannelScan) :
    (derivedResolved t).toNat = max t.headerBound.toNat ((t.lastEnd.map (·.epoch.toNat)).getD 0) := by
  rw [derivedResolved, maxEpoch_toNat, endBound]
  cases t.lastEnd <;> rfl

theorem exceeds_iff (e : Option Epoch) (r : Epoch) : exceeds e r = true ↔ ∃ x, e = some x ∧ r.toNat < x.toNat := by
  cases e <;> simp [exceeds]

theorem rebased_toNat (x : ChannelReport) : (ChannelReport.rebased x).resolved.toNat =
    max x.resolved.toNat ((x.openEpoch.map (·.toNat)).getD 0) := by
  unfold ChannelReport.rebased
  cases x.openEpoch with
  | none => simp
  | some e => exact maxEpoch_toNat _ _

/-! ### The claims (R135) -/

/-- The claim of a segment: a used one with an accepted record claims its first number to its last. -/
def claimOf (x : Nat × SegmentScan) : Option (Nat × Seq × Seq) :=
  match x.2.status, x.2.last with
  | .used, some l => some (x.1, x.2.first, l.1)
  | _, _ => none

theorem claims_eq (tb : RecoveryTables) : claims tb = (tb.segments.mapIdx fun i x => (i, x)).filterMap claimOf := rfl

theorem claimOf_eq_some_iff (i : Nat) (x : SegmentScan) (a : Nat) (first last : Seq) :
    claimOf (i, x) = some (a, first, last) ↔
      i = a ∧ x.status = .used ∧ x.first = first ∧ ∃ slot, x.last = some (last, slot) := by
  unfold claimOf
  dsimp only
  split
  next l hs hl =>
    obtain ⟨m, slot⟩ := l
    rw [hs, hl]
    constructor
    · rintro ⟨⟩
      exact ⟨rfl, rfl, rfl, slot, rfl⟩
    · rintro ⟨rfl, -, rfl, _, ⟨⟩⟩
      rfl
  next hno => exact ⟨nofun, fun ⟨_, hs, _, _, hl⟩ => absurd hl (hno _ hs)⟩

theorem mem_claims_iff (tb : RecoveryTables) (a : Nat) (first last : Seq) : (a, first, last) ∈ claims tb ↔
    ∃ x slot, tb.segments[a]? = some x ∧ x.status = .used ∧ x.first = first ∧ x.last = some (last, slot) := by
  simp only [claims_eq, List.mem_filterMap, List.mem_mapIdx]
  constructor
  · rintro ⟨_, ⟨i, hlt, rfl⟩, hclaim⟩
    obtain ⟨rfl, hs, hfirst, slot, hl⟩ := (claimOf_eq_some_iff ..).mp hclaim
    exact ⟨_, slot, List.getElem?_eq_getElem hlt, hs, hfirst, hl⟩
  · rintro ⟨x, slot, hx, hs, hfirst, hl⟩
    obtain ⟨hlt, rfl⟩ := List.getElem?_eq_some_iff.mp hx
    exact ⟨_, ⟨a, hlt, rfl⟩, (claimOf_eq_some_iff ..).mpr ⟨rfl, hs, hfirst, slot, hl⟩⟩

/-- The claims stand in ascending order of their segments. -/
theorem claims_ascend (tb : RecoveryTables) : (claims tb).Pairwise fun x y => x.1 < y.1 := by
  rw [claims_eq, List.pairwise_filterMap, List.pairwise_iff_getElem]
  rintro i j hi hj hij ⟨a, _, _⟩ ha ⟨b, _, _⟩ hb
  rw [List.getElem_mapIdx] at ha hb
  obtain ⟨rfl, -⟩ := (claimOf_eq_some_iff ..).mp ha
  obtain ⟨rfl, -⟩ := (claimOf_eq_some_iff ..).mp hb
  exact hij

/-- Two segments claim a common number. -/
def Common (x y : Nat × Seq × Seq) : Prop := ∃ n, x.2.1 ≤ n ∧ n ≤ x.2.2 ∧ y.2.1 ≤ n ∧ n ≤ y.2.2

/-- For claims that are not empty that is what the check compares. -/
theorem common_iff {x y : Nat × Seq × Seq} (hx : x.2.1 ≤ x.2.2) (hy : y.2.1 ≤ y.2.2) :
    Common x y ↔ x.2.1 ≤ y.2.2 ∧ y.2.1 ≤ x.2.2 :=
  ⟨fun ⟨_, h1, h2, h3, h4⟩ => ⟨Nat.le_trans h1 h4, Nat.le_trans h3 h2⟩,
    fun ⟨h1, h2⟩ => ⟨max x.2.1 y.2.1, Nat.le_max_left .., Nat.max_le.mpr ⟨hx, h2⟩, Nat.le_max_right ..,
      Nat.max_le.mpr ⟨h1, hy⟩⟩⟩

/-- What the first claim has in common with the later ones. -/
theorem find?_common_eq_none {x : Nat × Seq × Seq} {rest : List (Nat × Seq × Seq)} (hx : x.2.1 ≤ x.2.2)
    (hrest : ∀ y ∈ rest, y.2.1 ≤ y.2.2) :
    (rest.find? fun y => decide (x.2.1 ≤ y.2.2) && decide (y.2.1 ≤ x.2.2)) = none ↔ ∀ y ∈ rest, ¬ Common x y := by
  rw [List.find?_eq_none]
  refine forall₂_congr fun y hy => ?_
  rw [common_iff hx (hrest y hy), Bool.and_eq_true, decide_eq_true_eq, decide_eq_true_eq]

/-- No overlap is found exactly when no two claims have a number in common (R135). -/
theorem overlappingClaims_eq_none_iff {cs : List (Nat × Seq × Seq)} (hcs : ∀ x ∈ cs, x.2.1 ≤ x.2.2) :
    overlappingClaims cs = none ↔ cs.Pairwise fun x y => ¬ Common x y := by
  induction cs with
  | nil => simp [overlappingClaims]
  | cons x rest ih =>
    obtain ⟨hx, hrest⟩ := List.forall_mem_cons.mp hcs
    rw [List.pairwise_cons, ← find?_common_eq_none hx hrest, ← ih hrest, overlappingClaims]
    split
    next hfound => simp [hfound]
    next hnone => simp [hnone]

/-- The overlap found is the first: the smallest lower index, and with it the smallest other (R135). -/
theorem overlappingClaims_first {cs : List (Nat × Seq × Seq)} (hcs : ∀ x ∈ cs, x.2.1 ≤ x.2.2)
    (hasc : cs.Pairwise fun x y => x.1 < y.1) {a b : Nat} (h : overlappingClaims cs = some (a, b)) :
    ∃ before x between y after, cs = before ++ x :: (between ++ y :: after) ∧ x.1 = a ∧ y.1 = b ∧ Common x y ∧
      (∀ z ∈ between, ¬ Common x z) ∧ ∀ z ∈ before, ∀ u ∈ cs, z.1 < u.1 → ¬ Common z u := by
  induction cs with
  | nil => simp [overlappingClaims] at h
  | cons x rest ih =>
    obtain ⟨hx, hrest⟩ := List.forall_mem_cons.mp hcs
    obtain ⟨hlow, hrestAsc⟩ := List.pairwise_cons.mp hasc
    rw [overlappingClaims] at h
    split at h
    next y hfound =>
      obtain ⟨hxy, between, after, rfl, hbetween⟩ := List.find?_eq_some_iff_append.mp hfound
      obtain ⟨rfl, rfl⟩ := Prod.mk.inj (Option.some.inj h)
      have hy := hrest y (by simp)
      refine ⟨[], x, between, y, after, rfl, rfl, rfl, (common_iff hx hy).mpr ?_, fun z hz => ?_, by simp⟩
      · simpa using hxy
      · rw [common_iff hx (hrest z (by simp [hz]))]
        exact fun ⟨hxz, hzx⟩ => by simpa [hxz, hzx] using hbetween z hz
    next hnone =>
      obtain ⟨before, v, between, y, after, rfl, hv, hy, hcommon, hbetween, hbefore⟩ := ih hrest hrestAsc h
      refine ⟨x :: before, v, between, y, after, rfl, hv, hy, hcommon, hbetween, fun z hz u hu hzu => ?_⟩
      rcases List.mem_cons.mp hu with rfl | hrestu
      · rcases List.mem_cons.mp hz with rfl | hz
        · exact absurd hzu (Nat.lt_irrefl _)
        · exact absurd hzu (Nat.lt_asymm (hlow z (by simp [hz])))
      · rcases List.mem_cons.mp hz with rfl | hz
        · exact (find?_common_eq_none hx hrest).mp hnone u hrestu
        · exact hbefore z hz u hrestu hzu

/-! ### The order of restoring (R135, R136) -/

/-- Inserting adds one segment. -/
theorem insertDescending_perm (x : Nat × Seq) (l : List (Nat × Seq)) : (insertDescending x l).Perm (x :: l) := by
  induction l with
  | nil => exact List.Perm.refl _
  | cons y ys ih =>
    unfold insertDescending
    split
    · exact List.Perm.refl _
    · exact (ih.cons y).trans (List.Perm.swap x y ys)

/-- Inserting keeps the descending order. -/
theorem insertDescending_descends (x : Nat × Seq) {l : List (Nat × Seq)} (h : l.Pairwise fun a b => b.2 ≤ a.2) :
    (insertDescending x l).Pairwise fun a b => b.2 ≤ a.2 := by
  induction l with
  | nil => exact List.pairwise_singleton _ _
  | cons y ys ih =>
    obtain ⟨hhead, htail⟩ := List.pairwise_cons.mp h
    unfold insertDescending
    split
    next hlt =>
      refine List.pairwise_cons.mpr ⟨fun z hz => ?_, h⟩
      rcases List.mem_cons.mp hz with rfl | hz
      · exact Nat.le_of_lt hlt
      · exact Nat.le_trans (hhead z hz) (Nat.le_of_lt hlt)
    next hge =>
      refine List.pairwise_cons.mpr ⟨fun z hz => ?_, ih htail⟩
      rcases List.mem_cons.mp ((insertDescending_perm x ys).mem_iff.mp hz) with rfl | hz
      · exact Nat.le_of_not_lt hge
      · exact hhead z hz

/-- A segment with its first number, when it needs restoring (R135). -/
def toBeRestored (p : Part) (x : Nat × SegmentScan) : Option (Nat × Seq) :=
  if needsRestoring p x.2 then some (x.1, x.2.first) else none

/-- The segments of a list are inserted one by one. -/
theorem foldl_insertDescending (p : Part) (l : List (Nat × SegmentScan)) : ∀ acc : List (Nat × Seq),
    acc.Pairwise (fun a b => b.2 ≤ a.2) → ∃ order,
      l.foldl (fun acc x => if needsRestoring p x.2 then insertDescending (x.1, x.2.first) acc else acc) acc = order ∧
        order.Pairwise (fun a b => b.2 ≤ a.2) ∧ order.Perm (l.filterMap (toBeRestored p) ++ acc) := by
  induction l with
  | nil => exact fun acc h => ⟨acc, rfl, h, List.Perm.refl _⟩
  | cons x l ih =>
    intro acc h
    rw [List.foldl_cons]
    by_cases hx : needsRestoring p x.2 = true
    · obtain ⟨order, hfold, hdesc, hperm⟩ := ih _ (insertDescending_descends (x.1, x.2.first) h)
      refine ⟨order, by rw [if_pos hx, hfold], hdesc, hperm.trans ?_⟩
      rw [List.filterMap_cons_some (by rw [toBeRestored, if_pos hx])]
      exact ((insertDescending_perm _ acc).append_left _).trans List.perm_middle
    · obtain ⟨order, hfold, hdesc, hperm⟩ := ih acc h
      refine ⟨order, by rw [if_neg hx, hfold], hdesc, ?_⟩
      rwa [List.filterMap_cons_none (by rw [toBeRestored, if_neg hx])]

/-- A function of the items and their indexes. -/
theorem map_mapIdx_pair {α β : Type} (f : Nat × α → β) (l : List α) :
    (l.mapIdx fun i x => (i, x)).map f = l.mapIdx fun i x => f (i, x) := by
  apply List.ext_getElem <;> simp

/-- The order holds the segments that need restoring, each once, by descending first number (R136). -/
theorem restoreOrder_spec (p : Part) : ∃ order : List (Nat × Seq), restoreOrder p = order.map (·.1) ∧
    order.Pairwise (fun a b => b.2 ≤ a.2) ∧
    order.Perm ((p.restore.tables.segments.mapIdx fun i x => toBeRestored p (i, x)).filterMap id) := by
  obtain ⟨order, hfold, hdesc, hperm⟩ :=
    foldl_insertDescending p (p.restore.tables.segments.mapIdx fun i s => (i, s)) [] List.Pairwise.nil
  refine ⟨order, by rw [restoreOrder, hfold], hdesc, ?_⟩
  rw [List.append_nil] at hperm
  refine hperm.trans (List.Perm.of_eq ?_)
  rw [← map_mapIdx_pair (toBeRestored p), List.filterMap_map]
  rfl

/-- With nothing to restore it is empty. -/
theorem restoreOrder_eq_nil {p : Part} (h : ∀ x ∈ p.restore.tables.segments, needsRestoring p x = false) :
    restoreOrder p = [] := by
  obtain ⟨order, horder, -, hperm⟩ := restoreOrder_spec p
  have hnone : (p.restore.tables.segments.mapIdx fun i x => toBeRestored p (i, x)).filterMap id = [] := by
    rw [List.filterMap_eq_nil_iff]
    intro y hy
    obtain ⟨i, hi, rfl⟩ := List.mem_mapIdx.mp hy
    simp [toBeRestored, h _ (List.getElem_mem hi)]
  rw [hnone] at hperm
  rw [horder, hperm.eq_nil]
  rfl

/-! ### What the checks derive (R135) -/

/-- The part with other reports of the channels (R132). -/
def withReports (p : Part) (chs : Vector ChannelReport 4) : Part :=
  { p with restore := { p.restore with report := { p.restore.report with channels := chs } } }

section
variable {p : Part} {chs : Vector ChannelReport 4}
  (hchs : ∀ c, getAt chs c = { getAt p.restore.report.channels c with
      resolved := derivedResolved (getAt p.restore.tables.channels c),
      openEpoch := if exceeds (getAt p.restore.tables.channels c).highestSaved
          (derivedResolved (getAt p.restore.tables.channels c))
        then (getAt p.restore.tables.channels c).highestSaved else none,
      tornFound := exceeds (getAt p.restore.tables.channels c).highestTorn
        (derivedResolved (getAt p.restore.tables.channels c)) })
include hchs

theorem deriveReport_eq : deriveReport p = withReports p chs := by
  have hzip : Vector.zipWith derivedReport p.restore.tables.channels p.restore.report.channels = chs :=
    ext_getAt fun c => by
      rw [hchs c]
      simp only [getAt, Vector.getElem_zipWith]
      rfl
  rw [← hzip]
  rfl

/-- A segment needs no restoring when nothing in it was saved above its channel's R_c. -/
theorem needsRestoring_derived {x : SegmentScan}
    (hx : ∀ c, exceeds (getAt x.highest c) (derivedResolved (getAt p.restore.tables.channels c)) = false) :
    needsRestoring (withReports p chs) x = false := by
  rw [needsRestoring, List.any_eq_false]
  intro c _
  have hresolved : (getAt chs c).resolved = derivedResolved (getAt p.restore.tables.channels c) := by rw [hchs c]
  simp only [withReports, hresolved, hx c, Bool.false_eq_true, not_false_eq_true]

end

/-! ### Where recovery goes from the scan (R133, R135, R136, R138) -/

/-- With no usable segment above, the scan has ended (R133). -/
theorem scanAfter_last {p : Part} {s : Nat}
    (h : (usableSegments p.classifier.geometry).find? (fun x => decide (s < x)) = none) :
    scanAfter p s = scanChecks p := by
  simp only [scanAfter, h]

section
variable {p : Part}

/-- Without a valid header there is no journal. -/
theorem scanChecks_noJournal (h : p.restore.tables.validHeaders = 0) :
    scanChecks p = recoveryFails p .noJournal nowhere := by
  rw [scanChecks, if_pos h]

/-- A number claimed twice makes the journal inconsistent. -/
theorem scanChecks_inconsistent {a b : Nat} (h : p.restore.tables.validHeaders ≠ 0)
    (ho : overlappingClaims (claims p.restore.tables) = some (a, b)) :
    scanChecks p = recoveryFails p .journalInconsistent { nowhere with seg := some a, second := some b } := by
  rw [scanChecks, if_neg h, ho]

/-- With nothing to restore recovery goes to REBASING. -/
theorem scanChecks_rebases {u : Part} (h : p.restore.tables.validHeaders ≠ 0)
    (ho : overlappingClaims (claims p.restore.tables) = none) (hu : deriveReport p = u) (hnone : restoreOrder u = []) :
    scanChecks p = rebase u := by
  simp only [scanChecks, h, ho, hu, hnone, if_false, List.isEmpty_nil, if_true]

/-- Else RESTORING takes the segments in their order. -/
theorem scanChecks_restores {u : Part} {a : Nat} {rest : List Nat} (h : p.restore.tables.validHeaders ≠ 0)
    (ho : overlappingClaims (claims p.restore.tables) = none) (hu : deriveReport p = u)
    (horder : restoreOrder u = a :: rest) :
    scanChecks p = restoreFrom { u with restore := { u.restore with recovery := .restoring } } (a :: rest) := by
  simp only [scanChecks, h, ho, hu, horder, if_false, List.isEmpty_cons, Bool.false_eq_true]

/-- RESTORING reads the last record of the segment it takes (R136). -/
theorem restoreFrom_next {a slot : Nat} {n : Seq} (rest : List Nat)
    (h : (p.restore.tables.segments.getD a SegmentScan.notRead).last = some (n, slot)) :
    restoreFrom p (a :: rest) = recoveryReads { p with restore := { p.restore with left := rest } }
      (.backHeader a slot n) [engineRead (.recovery 0) (slotAddr p.classifier.geometry a slot) 32] := by
  have h' : (scanOf p a).last = some (n, slot) := h
  simp only [restoreFrom, h', Machine.readBack]

/-- REBASING writes the ACTIVE header of the lowest usable segment with the rebased R_c (R138). -/
theorem rebase_eq (h : p.restore.tables.highestSeq + 1 ≤ 281474976710654) : rebase p = { p with
    restore := { p.restore with
      recovery := .rebasing, stage := .activeHeader (lowestUsable p.classifier.geometry),
      report := { p.restore.report with
        newFirst := p.restore.tables.highestSeq + 1,
        channels := p.restore.report.channels.map ChannelReport.rebased } },
    arbiter := { p.arbiter with waiting := p.arbiter.waiting ++
      [engineWrite (.recovery 0) (segmentAddr p.classifier.geometry (lowestUsable p.classifier.geometry))
        (segmentHeaderBytes p.classifier.geometry (lowestUsable p.classifier.geometry) true
          (p.restore.tables.highestSeq + 1)
          (p.restore.report.channels.map fun y => (ChannelReport.rebased y).resolved))] } } := by
  have h' : p.restore.tables.highestSeq + 1 ≤ Config.maxSeq := h
  have hepochs : (p.restore.report.channels.map ChannelReport.rebased).map (fun ch => ch.resolved) =
      p.restore.report.channels.map fun y => (ChannelReport.rebased y).resolved := by
    rw [Vector.map_map]
    rfl
  rw [rebase]
  dsimp only
  rw [if_pos h', ← hepochs]
  rfl

/-- Without a sequence number left it fails (R138, log 26). -/
theorem rebase_exhausted (h : 281474976710654 < p.restore.tables.highestSeq + 1) : rebase p =
    recoveryFails { p with restore := { p.restore with
      recovery := .rebasing,
      report := { p.restore.report with newFirst := p.restore.tables.highestSeq + 1 } } } .sequenceExhausted nowhere := by
  have h' : ¬ p.restore.tables.highestSeq + 1 ≤ Config.maxSeq := Nat.not_le.mpr h
  rw [rebase]
  dsimp only
  rw [if_neg h']

end

/-! ### The answer that ends the scan (R77, R87, R133) -/

section
variable {p : Part} {t : DTag} {r : DownReq} {k s slot : Nat} {n : Seq} {h : HeaderSlot} {data image : List Byte}
  (w : List Instr)
  (hi : getAt p.arbiter.issued t = some r) (hr : r.purpose = .recovery k)
  (hb : p.command.busy = .recover) (hf : p.power.frozen = false)
  (hlast : (usableSegments p.classifier.geometry).find? (fun x => decide (s < x)) = none)
include hi hr hb hf hlast

/-- A header that fails its test, in the last usable segment. -/
theorem exec_lastHeader_invalid (hs : p.restore.stage = .scanHeader s)
    (hv : segmentHeaderValid p.classifier.geometry s data = false) :
    exec (.scanReadAnswered t (.done data)) ⟨p, w⟩ = .next ⟨scanChecks (withTables (freeTag p t)
      { p.restore.tables with
        segments := p.restore.tables.segments.modify s fun x => { x with status := .invalid } }), w⟩ := by
  rw [exec_scanHeader_done w hi hr hb hf hs, scanHeaderRead_invalid (p := freeTag p t) hv,
    scanAfter_last (p := withTables (freeTag p t) _) hlast]
  rfl

/-- An EMPTY header there. -/
theorem exec_lastHeader_empty (hs : p.restore.stage = .scanHeader s)
    (hv : segmentHeaderValid p.classifier.geometry s data = true) (hu : segmentHeaderUsed data = false) :
    exec (.scanReadAnswered t (.done data)) ⟨p, w⟩ = .next ⟨scanChecks (withTables (freeTag p t)
      { p.restore.tables with
        segments := p.restore.tables.segments.modify s fun x => { x with status := .empty },
        validHeaders := p.restore.tables.validHeaders + 1 }), w⟩ := by
  rw [exec_scanHeader_done w hi hr hb hf hs, scanHeaderRead_empty (p := freeTag p t) hv hu,
    scanAfter_last (p := withTables (freeTag p t) _) hlast]
  rfl

/-- A record there that fails its test. -/
theorem exec_lastRecord_invalid (hread : RecordRead p s slot n k data h image)
    (hv : recordValid p.classifier.geometry.identity h image slot (slotsPerSegment p.classifier.geometry) n = false) :
    exec (.scanReadAnswered t (.done data)) ⟨p, w⟩ = .next ⟨scanChecks (withTables (freeTag p t)
      (tablesEnded p.restore.tables s .invalid)), w⟩ := by
  rw [exec_recordRead w hi hr hb hf hread, hv, scanRecordTested_invalid,
    scanAfter_last (p := withTables (freeTag p t) _) hlast]
  rfl

/-- A PAD there. -/
theorem exec_lastRecord_pad (hread : RecordRead p s slot n k data h image)
    (hv : recordValid p.classifier.geometry.identity h image slot (slotsPerSegment p.classifier.geometry) n = true)
    (hk : h.kind = some .pad) :
    exec (.scanReadAnswered t (.done data)) ⟨p, w⟩ = .next ⟨scanChecks (withTables (freeTag p t)
      (tablesPadded p.restore.tables s slot n)), w⟩ := by
  rw [exec_recordRead w hi hr hb hf hread, hv, scanRecordTested_pad hk, seq_of_recordValid hv,
    scanAfter_last (p := withTables (freeTag p t) _) hlast]
  rfl

/-- A record there that fills it. -/
theorem exec_lastRecord_full {kind : RecordKind} (hread : RecordRead p s slot n k data h image)
    (hv : recordValid p.classifier.geometry.identity h image slot (slotsPerSegment p.classifier.geometry) n = true)
    (hk : h.kind = some kind) (hpad : kind ≠ .pad)
    (hfull : slotsPerSegment p.classifier.geometry ≤ slot + (if kind = .undo then 3 else 1)) :
    exec (.scanReadAnswered t (.done data)) ⟨p, w⟩ = .next ⟨scanChecks (withTables (freeTag p t)
      { tablesAccepted p.restore.tables s slot n kind h with
        segments := p.restore.tables.segments.modify s fun x =>
          { segmentAccepted kind h n slot x with ended := some .full } }), w⟩ := by
  rw [exec_recordRead w hi hr hb hf hread, hv, scanRecordTested_goesOn hk hpad, seq_of_recordValid hv,
    scanAt_full (p := withTables (freeTag p t) _) hfull,
    scanAfter_last (p := withTables (withTables (freeTag p t) _) _) hlast]
  simp only [withTables, tablesEnded_accepted, freeTag_restore]

end

/-- Settles O31: every end of the scan is the checks on its tables, and the checks' outcomes one by one. -/
theorem scanEndsWithChecks : Obligations.ScanEndsWithChecks := by
  refine ⟨?_, derivedResolved_toNat, exceeds_iff, rebased_toNat, mem_claims_iff, claims_ascend, ?_,
    fun p => restoreOrder_spec p, rfl⟩
  · rintro p _ w t r k s _ tb data chs _ _ hi hr hb hf rfl hlast hend rfl hchs rfl rfl
    have hexec : exec (.scanReadAnswered t (.done data)) ⟨p, w⟩ =
        .next ⟨scanChecks (withTables (freeTag p t) tb), w⟩ := by
      rcases hend with ⟨hs, hv, rfl⟩ | ⟨hs, hv, hu, rfl⟩ | ⟨slot, n, h, image, hread, hrecord⟩
      · exact exec_lastHeader_invalid w hi hr hb hf hlast hs hv
      · exact exec_lastHeader_empty w hi hr hb hf hlast hs hv hu
      · rcases hrecord with ⟨hv, rfl⟩ | ⟨hv, hk, rfl⟩ | ⟨kind, y, hv, hk, hpad, hfull, rfl, rfl⟩
        · exact exec_lastRecord_invalid w hi hr hb hf hlast hread hv
        · exact exec_lastRecord_pad w hi hr hb hf hlast hread hv hk
        · rw [exec_lastRecord_full w hi hr hb hf hlast hread hv hk hpad hfull]
          cases kind <;> rfl
    have hderived : deriveReport (withTables (freeTag p t) tb) = withReports (withTables (freeTag p t) tb) chs :=
      deriveReport_eq hchs
    rw [hexec]
    refine ⟨fun hv => ?_, fun a b hv ho => ?_, fun hv ho hnone => ?_, fun a rest n slot hv ho horder hl => ?_⟩
    · rw [scanChecks_noJournal hv, recoveryFails_eq]
      · rfl
      · exact hb
    · rw [scanChecks_inconsistent hv ho, recoveryFails_eq]
      · rfl
      · exact hb
    · have hempty : restoreOrder (withReports (withTables (freeTag p t) tb) chs) = [] :=
        restoreOrder_eq_nil fun x hx => needsRestoring_derived (p := withTables (freeTag p t) tb) hchs (hnone x hx)
      rw [scanChecks_rebases hv ho hderived hempty]
      refine ⟨fun hroom => ?_, fun hspent => ?_⟩
      · rw [rebase_eq hroom]
        rfl
      · rw [rebase_exhausted hspent, recoveryFails_eq]
        · rfl
        · exact hb
    · rw [scanChecks_restores hv ho hderived horder, restoreFrom_next rest hl]
      rfl
  · rintro cs _ rfl hasc hcs
    exact ⟨overlappingClaims_eq_none_iff hcs, fun a b => overlappingClaims_first hcs hasc⟩

end Sys2Proof.Proofs

/-! RESTORING: a record's header and payload read back, its line written, and the step to the record before it (R88, R135 to R138,
R140). -/

namespace Sys2Proof.Proofs

open Sys2Proof.Machine Sys2Proof.Laws

/-! ### Pieces answered FAILED (R154) -/

theorem anyFailed_iff (ps : List Piece) : anyFailed ps = true ↔ Piece.failed ∈ ps := by
  rw [anyFailed, List.contains_iff_mem]

/-- Pieces of which none waits and none has failed are DONE. -/
theorem done_of_answered {ps : List Piece} (hall : Piece.waiting ∉ ps) (hfail : Piece.failed ∉ ps) :
    ∀ y ∈ ps, ∃ d, y = .done d := by
  intro y hy
  cases y with
  | waiting => exact absurd hy hall
  | done d => exact ⟨d, rfl⟩
  | failed => exact absurd hy hfail

/-! ### The rows (R136, R137) -/

section
variable {p : Part} {t : DTag} {r : DownReq} {k s slot : Nat} {n : Seq} {h : HeaderSlot} {old : List Piece} (w : List Instr)
  (hi : getAt p.arbiter.issued t = some r) (hr : r.purpose = .recovery k)
include hi hr

/-- A piece of a payload read is answered (R154). -/
theorem exec_backPayload (hs : p.restore.stage = .backPayload s slot n h old) (a : ReadAnswer) :
    exec (.recoveryRestoreReadAnswered t a) ⟨p, w⟩ =
      .next ⟨backPieces (freeTag p t) s slot n h (old.set k (pieceOfAnswer a)), w⟩ := by
  show Host.Outcome.next (State.mk (backReadRow p t _) w) = _
  simp only [backReadRow, recoveryPieceOf_eq hi hr, hs]

variable (hb : p.command.busy = .recover) (hf : p.power.frozen = false)
include hb hf

/-- The header read of a record is answered DONE. -/
theorem exec_backHeader_done (hs : p.restore.stage = .backHeader s slot n) (data : List Byte) :
    exec (.recoveryRestoreReadAnswered t (.done data)) ⟨p, w⟩ =
      .next ⟨backHeaderRead (freeTag p t) s slot n (headerOfBytes data), w⟩ := by
  show Host.Outcome.next (State.mk (backReadRow p t _) w) = _
  simp only [backReadRow, recoveryPieceOf_eq hi hr, hs, backHeaderAnswered, unlessStopped_recovering hb hf]

/-- It is answered FAILED. -/
theorem exec_backHeader_failed (hs : p.restore.stage = .backHeader s slot n) :
    exec (.recoveryRestoreReadAnswered t .failed) ⟨p, w⟩ = .next ⟨restoreFails (freeTag p t) s n none, w⟩ := by
  show Host.Outcome.next (State.mk (backReadRow p t _) w) = _
  simp only [backReadRow, recoveryPieceOf_eq hi hr, hs, backHeaderAnswered, unlessStopped_recovering hb hf]

/-- The last piece of a payload read is answered, and all are DONE. -/
theorem exec_backPayload_read (hs : p.restore.stage = .backPayload s slot n h old) {a : ReadAnswer}
    (hdone : ∀ y ∈ old.set k (pieceOfAnswer a), ∃ d, y = .done d) :
    exec (.recoveryRestoreReadAnswered t a) ⟨p, w⟩ =
      .next ⟨backPayloadRead (freeTag p t) s slot n h (gatheredData (old.set k (pieceOfAnswer a))), w⟩ := by
  rw [exec_backPayload w hi hr hs]
  simp only [backPieces, allAnswered_of_done hdone, anyFailed_of_done hdone, if_true, Bool.false_eq_true, if_false,
    unlessStopped_recovering hb hf]

/-- All pieces of a payload read are answered, one of them FAILED. -/
theorem exec_backPayload_failed (hs : p.restore.stage = .backPayload s slot n h old) {a : ReadAnswer}
    (hall : Piece.waiting ∉ old.set k (pieceOfAnswer a)) (hfail : Piece.failed ∈ old.set k (pieceOfAnswer a)) :
    exec (.recoveryRestoreReadAnswered t a) ⟨p, w⟩ =
      .next ⟨restoreFails (freeTag p t) s n (some h.line), w⟩ := by
  rw [exec_backPayload w hi hr hs]
  simp only [backPieces, (allAnswered_iff _).mpr hall, (anyFailed_iff _).mpr hfail, if_true,
    unlessStopped_recovering hb hf]

/-- The restore write is answered DONE: its line counts, and the walk goes on. -/
theorem exec_backWrite_done (hs : p.restore.stage = .backWrite s slot n h) :
    exec (.recoveryRestoreWriteAnswered t .done) ⟨p, w⟩ =
      .next ⟨backStep (countRecovered (freeTag p t) h) s slot n h, w⟩ := by
  rw [exec_restoreWriteAnswered w hi hr .done hs, backWriteAnswered_done (p := freeTag p t) (by simp [hb]),
    unlessStopped_eq (p := countRecovered (freeTag p t) h) (by simp [countRecovered_eq, hb]) hf]

/-- It is answered FAILED. -/
theorem exec_backWrite_failed (hs : p.restore.stage = .backWrite s slot n h) :
    exec (.recoveryRestoreWriteAnswered t .failed) ⟨p, w⟩ =
      .next ⟨restoreFails (freeTag p t) s h.seq (some h.line), w⟩ := by
  rw [exec_restoreWriteAnswered w hi hr .failed hs]
  simp only [backWriteAnswered, unlessStopped_recovering hb hf]

end

/-! ### The test of a record (R86, R136, logs 16, 18) -/

section
variable {p : Part} {s slot : Nat} {n : Seq} {h : HeaderSlot}

/-- In a header slot of the right shape the check word is tested for every kind but UNDO. -/
theorem walkHeaderCheck_iff {slots : Nat} (identity : Word) (hshape : headerShape h slot slots = true) :
    walkHeaderCheck identity h = true ↔ (h.kind ≠ some .undo → checkMatches identity h [] = true) := by
  obtain ⟨kind, hk, -⟩ := (headerShape_iff _ _ _).mp hshape
  unfold walkHeaderCheck
  rw [hk]
  cases kind <;> simp

/-- A header slot of the right shape and number whose check word, but for UNDO records, matches. -/
theorem backHeaderOk_iff (p : Part) (h : HeaderSlot) (slot : Nat) (n : Seq) : backHeaderOk p h slot n = true ↔
    headerShape h slot (slotsPerSegment p.classifier.geometry) = true ∧ h.seq = n ∧
      (h.kind ≠ some .undo → checkMatches p.classifier.geometry.identity h [] = true) := by
  simp only [backHeaderOk, Bool.and_eq_true, beq_iff_eq, and_assoc]
  exact and_congr_right fun hshape => and_congr_right fun _ => walkHeaderCheck_iff _ hshape

theorem toRestore_iff (p : Part) (h : HeaderSlot) : toRestore p h = true ↔ h.kind = some .undo ∧
    (getAt p.restore.report.channels h.channel).resolved.toNat < h.epoch.toNat := by
  simp [toRestore, exceeds]

/-- A record that fails its test ends RESTORING. -/
theorem backHeaderRead_fails (hok : backHeaderOk p h slot n = false) :
    backHeaderRead p s slot n h = restoreFails p s n (if h.kind = some .undo then some h.line else none) := by
  simp only [backHeaderRead, hok, Bool.false_eq_true, if_false, faultLineOf, beq_iff_eq]

/-- The payload of a record to restore is read. -/
theorem backHeaderRead_restores (hok : backHeaderOk p h slot n = true) (hr : toRestore p h = true) :
    backHeaderRead p s slot n h = recoveryReads p
      (.backPayload s slot n h (freshPieces (slotAddr p.classifier.geometry s (slot + 1)) 64))
      (readPieces .recovery (slotAddr p.classifier.geometry s (slot + 1)) 64) := by
  simp only [backHeaderRead, hok, hr, if_true]

/-- Past any other record the walk goes on. -/
theorem backHeaderRead_goesOn (hok : backHeaderOk p h slot n = true) (hr : toRestore p h = false) :
    backHeaderRead p s slot n h = backStep p s slot n h := by
  simp only [backHeaderRead, hok, hr, if_true, Bool.false_eq_true, if_false]

/-! ### The step to the record before (R88, R136, log 17) -/

/-- The back-link names the record that is read next. -/
theorem backStep_reads (hl : h.backLink ≠ 0) (hroom : 2 + h.backLink ≤ slot) : backStep p s slot n h =
    recoveryReads p (.backHeader s (slot - h.backLink) (n - 1))
      [engineRead (.recovery 0) (slotAddr p.classifier.geometry s (slot - h.backLink)) 32] := by
  have hslot : ¬ (h.backLink = 0 ∨ slot = Config.headerSlots) := by
    rw [Config.headerSlots]
    omega
  have hroom' : ¬ slot < Config.headerSlots + h.backLink := Nat.not_lt.mpr hroom
  simp only [backStep, hslot, hroom', if_false, Machine.readBack]

/-- A back-link that leads below slot 2 ends RESTORING. -/
theorem backStep_fails (hl : h.backLink ≠ 0) (hslot : slot ≠ 2) (hbelow : slot < 2 + h.backLink) :
    backStep p s slot n h = restoreFails p s (n - 1) none := by
  have hslot' : ¬ (h.backLink = 0 ∨ slot = Config.headerSlots) := not_or.mpr ⟨hl, hslot⟩
  have hbelow' : slot < Config.headerSlots + h.backLink := hbelow
  simp only [backStep, hslot', hbelow', if_false, if_true]

/-- At the segment's first record the walk leaves it. -/
theorem backStep_leaves (hfirst : h.backLink = 0 ∨ slot = 2) :
    backStep p s slot n h = restoreFrom p p.restore.left := by
  have hfirst' : h.backLink = 0 ∨ slot = Config.headerSlots := hfirst
  simp only [backStep, hfirst', if_true]

/-- With no segment left recovery goes to REBASING. -/
theorem restoreFrom_nil (p : Part) : restoreFrom p [] = rebase p := rfl

/-! ### The payload (R136, R137) -/

/-- A payload whose check word does not match ends RESTORING. -/
theorem backPayloadRead_fails {image : List Byte}
    (hc : checkMatches p.classifier.geometry.identity h (payloadWords image) = false) :
    backPayloadRead p s slot n h image = restoreFails p s n (some h.line) := by
  simp only [backPayloadRead, hc, Bool.false_eq_true, if_false]

/-- Its line is written. -/
theorem backPayloadRead_writes {image : List Byte}
    (hc : checkMatches p.classifier.geometry.identity h (payloadWords image) = true)
    (hw : inWindow p.classifier.geometry h.line.toNat = false) :
    backPayloadRead p s slot n h image = recoveryReads p (.backWrite s slot n h)
      [engineWrite (.recovery 0) h.line.toNat image] := by
  simp only [backPayloadRead, hc, hw, if_true, Bool.false_eq_true, if_false]

/-- A line of the journal area is skipped. -/
theorem backPayloadRead_skips {image : List Byte}
    (hc : checkMatches p.classifier.geometry.identity h (payloadWords image) = true)
    (hw : inWindow p.classifier.geometry h.line.toNat = true) :
    backPayloadRead p s slot n h image =
      backStep (modReport p h.channel fun y => { y with skipped := y.skipped + 1 }) s slot n h := by
  simp only [backPayloadRead, hc, hw, if_true]

end

/-- Settles O32: the rows, the test of the record read, and the step to the record before it. -/
theorem restoringRestoresLine : Obligations.RestoringRestoresLine := by
  rintro p _ w t r k s slot n _ _ _ hi hr hb hf rfl rfl rfl rfl
  refine ⟨fun hs => ?_, ?_, ?_, ?_, fun h hs => ?_, ?_⟩
  · rw [exec_backHeader_failed w hi hr hb hf hs, restoreFails, recoveryFails_eq]
    · rfl
    · exact hb
  · rintro data _ hs rfl hbad
    have hok : backHeaderOk (freeTag p t) (headerOfBytes data) slot n = false := by
      rw [← Bool.not_eq_true, backHeaderOk_iff]
      rintro ⟨hshape, hseq, hcheck⟩
      rcases hbad with hno | hno | ⟨hk, hno⟩
      · exact Bool.false_ne_true (hno.symm.trans hshape)
      · exact hno hseq
      · exact Bool.false_ne_true (hno.symm.trans (hcheck hk))
    rw [exec_backHeader_done w hi hr hb hf hs, backHeaderRead_fails hok, restoreFails, recoveryFails_eq]
    · rfl
    · exact hb
  · rintro data _ hs rfl hshape hseq hk habove
    have hok : backHeaderOk (freeTag p t) (headerOfBytes data) slot n = true :=
      (backHeaderOk_iff _ _ _ _).mpr ⟨hshape, hseq, fun hno => absurd hk hno⟩
    have hrestore : toRestore (freeTag p t) (headerOfBytes data) = true := (toRestore_iff _ _).mpr ⟨hk, habove⟩
    rw [exec_backHeader_done w hi hr hb hf hs, backHeaderRead_restores hok hrestore]
    rfl
  · rintro a h old ps hs hps
    obtain rfl : ps = old.set k (pieceOfAnswer a) := by
      rw [hps]
      cases a <;> rfl
    refine ⟨fun hwaiting => ?_, fun hall hbad => ?_, fun hdone hcheck hwindow => ?_⟩
    · rw [exec_backPayload w hi hr hs, backPieces, (allAnswered_eq_false_iff _).mpr hwaiting]
      rfl
    · have hfails : exec (.recoveryRestoreReadAnswered t a) ⟨p, w⟩ =
          .next ⟨restoreFails (freeTag p t) s n (some h.line), w⟩ := by
        by_cases hfail : Piece.failed ∈ old.set k (pieceOfAnswer a)
        · exact exec_backPayload_failed w hi hr hb hf hs hall hfail
        · rw [exec_backPayload_read w hi hr hb hf hs (done_of_answered hall hfail),
            backPayloadRead_fails (p := freeTag p t) (hbad.resolve_left hfail)]
      rw [hfails, restoreFails, recoveryFails_eq]
      · rfl
      · exact hb
    · rw [exec_backPayload_read w hi hr hb hf hs hdone, backPayloadRead_writes (p := freeTag p t) hcheck hwindow]
      rfl
  · rw [exec_backWrite_failed w hi hr hb hf hs, restoreFails, recoveryFails_eq]
    · rfl
    · exact hb
  · rintro i u h y rfl hcase
    obtain ⟨hexec, hclass, hcommand, hleft, htables, hwaiting⟩ :
        exec i ⟨p, w⟩ = .next ⟨backStep u s slot n h, w⟩ ∧ u.classifier = p.classifier ∧ u.command = p.command ∧
          u.restore.left = p.restore.left ∧ u.restore.tables = p.restore.tables ∧
          u.arbiter.waiting = p.arbiter.waiting := by
      rcases hcase with ⟨data, rfl, hs, rfl, hshape, hseq, hbelow, hcheck, rfl⟩ |
        ⟨data, old, _, rfl, hs, rfl, hdone, hcheck, hwindow, rfl⟩ | ⟨rfl, hs, rfl⟩
      · have hok : backHeaderOk (freeTag p t) (headerOfBytes data) slot n = true :=
          (backHeaderOk_iff _ _ _ _).mpr ⟨hshape, hseq, hcheck⟩
        have hrestore : toRestore (freeTag p t) (headerOfBytes data) = false := by
          rw [← Bool.not_eq_true, toRestore_iff]
          exact fun ⟨hk, habove⟩ => Nat.not_lt.mpr (hbelow hk) habove
        refine ⟨?_, rfl, rfl, rfl, rfl, rfl⟩
        rw [exec_backHeader_done w hi hr hb hf hs, backHeaderRead_goesOn hok hrestore]
        rfl
      · refine ⟨?_, rfl, rfl, rfl, rfl, rfl⟩
        rw [exec_backPayload_read (a := .done data) w hi hr hb hf hs hdone,
          backPayloadRead_skips (p := freeTag p t) (image := gatheredData (old.set k (pieceOfAnswer (.done data))))
            hcheck hwindow]
        rfl
      · refine ⟨?_, rfl, rfl, rfl, rfl, rfl⟩
        rw [exec_backWrite_done w hi hr hb hf hs, countRecovered_eq]
        rfl
    have hbusy : u.command.busy = .recover := by rw [hcommand, hb]
    rw [hexec, ← hleft, ← htables, ← hclass, ← hwaiting]
    refine ⟨fun hl hroom => ?_, fun hl hslot hbelow => ?_, fun a rest m top hfirst hlist hlast => ?_, ?_⟩
    · rw [backStep_reads hl hroom]
      rfl
    · rw [backStep_fails hl hslot hbelow, restoreFails, recoveryFails_eq hbusy]
      rfl
    · rw [backStep_leaves hfirst, hlist, restoreFrom_next rest hlast]
      rfl
    · rintro _ _ hfirst hlist rfl rfl
      rw [backStep_leaves hfirst, hlist, restoreFrom_nil]
      refine ⟨fun hroom => ?_, fun hspent => ?_⟩
      · rw [rebase_eq hroom]
      · rw [rebase_exhausted hspent, recoveryFails_eq]
        · rfl
        · exact hbusy

end Sys2Proof.Proofs

/-! The walk of a rollback: its rows, the step to the record before, its end, and a rollback that has been stopped (R88, R119 to
R123, R125 to R127, R154). -/

namespace Sys2Proof.Proofs

open Sys2Proof.Machine Sys2Proof.Laws

/-! ### The part in the walk -/

/-- The part with this rollback being served, its status and the event flags. -/
def walkAt (q : Part) (y : Rollback) (st : RollbackStatus) (fl : BitVec 18) : Part :=
  { q with restore := { q.restore with rollback := some y, status := st }, events := { q.events with flags := fl } }

section
variable (q : Part) (y : Rollback) (st : RollbackStatus) (fl : BitVec 18)

/-- A fault is kept with the rollback and raised (R121). -/
theorem rollbackFault_walkAt : rollbackFault (walkAt q y st fl) =
    walkAt q { y with fault := true } st (fl ||| eventMask .rollbackFault) := rfl

/-- A skipped line counts, and is a fault (R121). -/
theorem skipLine_walkAt : skipLine (walkAt q y st fl) = walkAt q { y with fault := true }
    { st with skipped := st.skipped + 1 } (fl ||| eventMask .rollbackFault) := rfl

theorem countRestored_walkAt : countRestored (walkAt q y st fl) =
    walkAt q y { st with restored := st.restored + 1 } fl := rfl

theorem chan_walkAt (c : Chan) : chan (walkAt q y st fl) c = chan q c := rfl

theorem rollbackAlive_eq (v : Part) :
    rollbackAlive v = v.restore.rollback.any fun z => (chan v z.channel).marker.isSome := by
  unfold rollbackAlive
  cases v.restore.rollback <;> rfl

/-- The ended walk enters RECORDING and asks for its ABORT record, which waits when it cannot be placed (R122, R123). -/
theorem enterRecording_walkAt {ch : Channel} (hch : chan q y.channel = ch) : enterRecording (walkAt q y st fl) y =
    match place
      { walkAt q { y with phase := .recording, stage := .idle, cursor := none } { st with cursorSegment := none } fl with
        channels := setAt q.channels y.channel { ch with state := .rollingBack .recording } }
      { kind := .abort, channel := y.channel, epoch := y.epoch, torn := ch.torn, fault := y.fault,
        overflowed := ch.overflow, line := 0, region := 0xFFFF, image := [], undoCount := ch.records } with
    | (v, some n) => { v with restore := { v.restore with
        rollback := v.restore.rollback.map fun z => { z with abortRecord := some n } } }
    | (v, none) => if v.restore.rollback.any fun z => (chan v z.channel).marker.isSome
        then { v with writer := { v.writer with waiting := v.writer.waiting ++
          [{ kind := .abort, channel := y.channel, epoch := y.epoch, torn := ch.torn, fault := y.fault,
             overflowed := ch.overflow, line := 0, region := 0xFFFF, image := [], undoCount := ch.records }] } }
        else v := by
  subst hch
  have hreq : abortRequest (setSubstate (clearCursor (modRollback (walkAt q y st fl) fun z =>
      { z with phase := .recording, stage := .idle })) y.channel .recording) y =
      { kind := .abort, channel := y.channel, epoch := y.epoch, torn := (chan q y.channel).torn, fault := y.fault,
        overflowed := (chan q y.channel).overflow, line := 0, region := 0xFFFF, image := [],
        undoCount := (chan q y.channel).records } := by
    simp only [abortRequest, setSubstate, chan_modChan_self]
    rfl
  unfold enterRecording
  dsimp only
  rw [hreq]
  change (match place
      { walkAt q { y with phase := .recording, stage := .idle, cursor := none } { st with cursorSegment := none } fl with
        channels := setAt q.channels y.channel { chan q y.channel with state := .rollingBack .recording } } _ with
    | (v, some n) => abortPlaced v n
    | (v, none) => _) = _
  generalize place _ _ = x
  obtain ⟨v, _ | n⟩ := x
  · dsimp only
    rw [rollbackAlive_eq]
    rfl
  · rfl

end

/-! ### The backward step (R88, R119, R121, R122, log 17) -/

section
variable {q : Part} {y : Rollback} {st : RollbackStatus} {fl : BitVec 18} {s0 : WalkSegment} {rest : List WalkSegment}
  {slot : Nat} {h : HeaderSlot}

/-- With all records found the walk ends. -/
theorem stepBack_found (hall : y.found = (chan q y.channel).records.toNat) :
    stepBack (walkAt q y st fl) y slot h = enterRecording (walkAt q y st fl) y := by
  rw [stepBack, chan_walkAt, if_pos hall]

variable (hmore : y.found ≠ (chan q y.channel).records.toNat) (hwalk : y.walk = s0 :: rest)
include hmore hwalk

/-- The back-link names the header that is read next. -/
theorem stepBack_reads (hl : h.backLink ≠ 0) (hroom : 2 + h.backLink ≤ slot) :
    stepBack (walkAt q y st fl) y slot h =
      walkTo (walkAt q y st fl) s0.seg (slot - h.backLink) (some (h.seq - 1)) := by
  have hroom' : ¬ slot < Config.headerSlots + h.backLink := Nat.not_lt.mpr hroom
  simp only [stepBack, chan_walkAt, hmore, hwalk, hl, hroom', if_false]

/-- The segment's first record, with the right number, leaves the segment. -/
theorem stepBack_leaves (hl : h.backLink = 0) (hseq : h.seq = s0.first) :
    stepBack (walkAt q y st fl) y slot h = nextSegment (walkAt q y st fl) y := by
  simp only [stepBack, chan_walkAt, hmore, hwalk, hl, hseq, if_false, if_true]

/-- A first record with the wrong number, or a back-link below slot 2, leaves it with a fault. -/
theorem stepBack_abandons (hbad : if h.backLink = 0 then h.seq ≠ s0.first else slot < 2 + h.backLink) :
    stepBack (walkAt q y st fl) y slot h = abandonSegment (walkAt q y st fl) y := by
  by_cases hl : h.backLink = 0
  · rw [if_pos hl] at hbad
    simp only [stepBack, chan_walkAt, hmore, hwalk, hl, hbad, if_false, if_true]
  · rw [if_neg hl] at hbad
    have hbad' : slot < Config.headerSlots + h.backLink := hbad
    simp only [stepBack, chan_walkAt, hmore, hwalk, hl, hbad', if_false, if_true]

end

/-! ### The rows (R119, R120, R154) -/

section
variable {p : Part} {t : DTag} {r : DownReq} {k : Nat} {x : Rollback} {h : HeaderSlot} {old : List Piece} (w : List Instr)
  (hi : getAt p.arbiter.issued t = some r) (hr : r.purpose = .rollback k) (hx : p.restore.rollback = some x)
include hi hr hx

/-- The tag is held by a piece of the walk's transfer. -/
theorem walkPieceOf_eq : walkPieceOf p t = some (x, k) := by
  have hi' : issuedAt p t = some r := hi
  simp only [walkPieceOf, hi', hr, hx]

theorem exec_walkHeader (a : ReadAnswer) (hs : x.stage = .header) :
    exec (.rollbackHeaderReadAnswered t a) ⟨p, w⟩ =
      .next ⟨settle (rollbackHeaderAnswered (freeTag p t) x a), w⟩ := by
  show Host.Outcome.next (State.mk (walkHeaderRow p t a) w) = _
  simp only [walkHeaderRow, walkPieceOf_eq hi hr hx, hs]

theorem exec_walkPayload (a : ReadAnswer) (hs : x.stage = .payload h old) :
    exec (.rollbackPayloadReadAnswered t a) ⟨p, w⟩ =
      .next ⟨settle (rollbackPayloadAnswered (freeTag p t) x h (old.set k (pieceOfAnswer a))), w⟩ := by
  show Host.Outcome.next (State.mk (walkPayloadRow p t a) w) = _
  simp only [walkPayloadRow, walkPieceOf_eq hi hr hx, hs]

theorem exec_walkRestore (a : WriteAnswer) (hs : x.stage = .restore h) :
    exec (.rollbackRestoreWriteAnswered t a) ⟨p, w⟩ =
      .next ⟨settle (rollbackRestoreAnswered (freeTag p t) x h a), w⟩ := by
  show Host.Outcome.next (State.mk (walkRestoreRow p t a) w) = _
  simp only [walkRestoreRow, walkPieceOf_eq hi hr hx, hs]

end

/-- The rollback of a part, changed. -/
theorem modRollback_served {p : Part} {x : Rollback} (hx : p.restore.rollback = some x) (f : Rollback → Rollback) :
    modRollback p f = walkAt p (f x) p.restore.status p.events.flags := by
  simp only [modRollback, hx]
  rfl

/-- With its request answered the walk is idle. -/
theorem walkIdle_served {p : Part} {x : Rollback} (hx : p.restore.rollback = some x) :
    walkIdle p = walkAt p { x with stage := .idle } p.restore.status p.events.flags :=
  modRollback_served hx _

/-- The rollback goes on exactly while its marker is unanswered (R125 to R127). -/
theorem rollbackAlive_served {p : Part} {x : Rollback} (hx : p.restore.rollback = some x) :
    rollbackAlive p = (chan p x.channel).marker.isSome := by
  rw [rollbackAlive_eq, hx]
  rfl

theorem walkSeqOk_some_iff (x : Rollback) (s : WalkSegment) (m n : Seq) : walkSeqOk x s (some m) n = true ↔ n = m := by
  simp [walkSeqOk]

theorem walkSeqOk_none_iff (x : Rollback) (s : WalkSegment) (n : Seq) : walkSeqOk x s none n = true ↔
    ∃ top, x.start = some top ∧ if s.endsAtS then n = top else s.first ≤ n ∧ n ≤ top := by
  unfold walkSeqOk
  cases x.start with
  | none => simp
  | some top => cases s.endsAtS <;> simp

/-! ### The header of a record (R119) -/

/-- The record belongs to the epoch being rolled back. -/
theorem ofRollback_iff (x : Rollback) (h : HeaderSlot) :
    ofRollback x h = true ↔ h.kind = some .undo ∧ h.channel = x.channel ∧ h.epoch = x.epoch := by
  simp [ofRollback, and_assoc]

/-- Shape, number and, but for UNDO records, check word. -/
def walkHeaderOk (g : Geometry) (x : Rollback) (s0 : WalkSegment) (cur : Cursor) (h : HeaderSlot) : Bool :=
  headerShape h cur.slot (slotsPerSegment g) && walkSeqOk x s0 cur.expected h.seq && walkHeaderCheck g.identity h

theorem walkHeaderOk_iff (g : Geometry) (x : Rollback) (s0 : WalkSegment) (cur : Cursor) (h : HeaderSlot) :
    walkHeaderOk g x s0 cur h = true ↔ headerShape h cur.slot (slotsPerSegment g) = true ∧
      walkSeqOk x s0 cur.expected h.seq = true ∧
        (h.kind ≠ some .undo → checkMatches g.identity h [] = true) := by
  simp only [walkHeaderOk, Bool.and_eq_true, and_assoc]
  exact and_congr_right fun hshape => and_congr_right fun _ => walkHeaderCheck_iff _ hshape

section
variable {q : Part} {x : Rollback} {s0 : WalkSegment} {rest : List WalkSegment} {cur : Cursor} {h : HeaderSlot}
  (hwalk : x.walk = s0 :: rest) (hcur : x.cursor = some cur)
include hwalk hcur

/-- A header that fails its test leaves the segment with a fault (R121). -/
theorem walkHeader_fails (hok : walkHeaderOk q.classifier.geometry x s0 cur h = false) :
    walkHeader q x h = abandonSegment q x := by
  unfold walkHeader
  rw [hwalk, hcur]
  exact if_neg (Bool.eq_false_iff.mp hok)

variable (hok : walkHeaderOk q.classifier.geometry x s0 cur h = true)
include hok

/-- The payload of an UNDO record of the epoch is read (R119). -/
theorem walkHeader_reads (hof : ofRollback x h = true) : walkHeader q x h =
    handOver (modRollback q fun y => { y with
        stage := .payload h (freshPieces (slotAddr q.classifier.geometry s0.seg (cur.slot + 1)) 64) })
      (readPieces .rollback (slotAddr q.classifier.geometry s0.seg (cur.slot + 1)) 64) := by
  unfold walkHeader
  rw [hwalk, hcur]
  exact (if_pos hok).trans (if_pos hof)

/-- Past any other record the walk goes on (R119). -/
theorem walkHeader_goesOn (hof : ofRollback x h = false) : walkHeader q x h = stepBack q x cur.slot h := by
  unfold walkHeader
  rw [hwalk, hcur]
  exact (if_pos hok).trans (if_neg (Bool.eq_false_iff.mp hof))

end

/-! ### What the rows do (R119 to R121) -/

section
variable {q : Part} {x : Rollback} {h : HeaderSlot} {ps : List Piece}

section
variable (halive : rollbackAlive q = true)
include halive

theorem rollbackHeaderAnswered_done (data : List Byte) :
    rollbackHeaderAnswered q x (.done data) = walkHeader (walkIdle q) x (headerOfBytes data) := by
  simp only [rollbackHeaderAnswered, halive, if_true]

theorem rollbackHeaderAnswered_failed : rollbackHeaderAnswered q x .failed = abandonSegment (walkIdle q) x := by
  simp only [rollbackHeaderAnswered, halive, if_true]

theorem rollbackPayloadAnswered_read (hall : Piece.waiting ∉ ps) :
    rollbackPayloadAnswered q x h ps = walkPayload (walkIdle q) x (cursorSlot x) h ps := by
  simp only [rollbackPayloadAnswered, (allAnswered_iff _).mpr hall, halive, if_true]

theorem rollbackRestoreAnswered_done :
    rollbackRestoreAnswered q x h .done = stepBack (countRestored (walkIdle q)) x (cursorSlot x) h := by
  simp only [rollbackRestoreAnswered, halive, if_true]

theorem rollbackRestoreAnswered_failed : rollbackRestoreAnswered q x h .failed =
    stepBack (skipLine (walkIdle q)) { x with fault := true } (cursorSlot x) h := by
  simp only [rollbackRestoreAnswered, halive, if_true]

end

/-! Once the rollback has been stopped the data is not used: a line restored counts, a failure is a fault (log 14). -/

section
variable (hstopped : rollbackAlive q = false)
include hstopped

theorem rollbackHeaderAnswered_stopped_done (data : List Byte) :
    rollbackHeaderAnswered q x (.done data) = walkIdle q := by
  simp only [rollbackHeaderAnswered, hstopped, Bool.false_eq_true, if_false]

theorem rollbackHeaderAnswered_stopped_failed :
    rollbackHeaderAnswered q x .failed = rollbackFault (walkIdle q) := by
  simp only [rollbackHeaderAnswered, hstopped, Bool.false_eq_true, if_false]

theorem rollbackPayloadAnswered_stopped_done (hdone : ∀ y ∈ ps, ∃ d, y = .done d) :
    rollbackPayloadAnswered q x h ps = walkIdle q := by
  simp only [rollbackPayloadAnswered, allAnswered_of_done hdone, anyFailed_of_done hdone, hstopped, if_true,
    Bool.false_eq_true, if_false]

theorem rollbackPayloadAnswered_stopped_failed (hall : Piece.waiting ∉ ps) (hfail : Piece.failed ∈ ps) :
    rollbackPayloadAnswered q x h ps = skipLine (walkIdle q) := by
  simp only [rollbackPayloadAnswered, (allAnswered_iff _).mpr hall, (anyFailed_iff _).mpr hfail, hstopped, if_true,
    Bool.false_eq_true, if_false]

theorem rollbackRestoreAnswered_stopped_done :
    rollbackRestoreAnswered q x h .done = countRestored (walkIdle q) := by
  simp only [rollbackRestoreAnswered, hstopped, Bool.false_eq_true, if_false]

theorem rollbackRestoreAnswered_stopped_failed :
    rollbackRestoreAnswered q x h .failed = skipLine (walkIdle q) := by
  simp only [rollbackRestoreAnswered, hstopped, Bool.false_eq_true, if_false]

end

theorem rollbackPayloadAnswered_waiting (hwaiting : Piece.waiting ∈ ps) :
    rollbackPayloadAnswered q x h ps = modRollback q fun y => { y with stage := .payload h ps } := by
  simp only [rollbackPayloadAnswered, (allAnswered_eq_false_iff _).mpr hwaiting, Bool.false_eq_true, if_false]

/-- A line whose payload has been read and matches is written with its old image. -/
theorem walkPayload_restores (slot : Nat) (hdone : ∀ y ∈ ps, ∃ d, y = .done d)
    (hcheck : checkMatches q.classifier.geometry.identity h (payloadWords (gatheredData ps)) = true)
    (hwindow : inWindow q.classifier.geometry h.line.toNat = false) : walkPayload q x slot h ps =
      handOver (modRollback (modRollback q fun y => { y with found := min (x.found + 1) 0xFFFFFFFF })
        fun y => { y with stage := .restore h }) [engineWrite (.rollback 0) h.line.toNat (gatheredData ps)] := by
  simp only [walkPayload, anyFailed_of_done hdone, hcheck, hwindow, Bool.not_true, Bool.or_self, Bool.false_eq_true,
    if_false]

/-- Any other line is skipped. -/
theorem walkPayload_skips (slot : Nat)
    (hbad : Piece.failed ∈ ps ∨ checkMatches q.classifier.geometry.identity h (payloadWords (gatheredData ps)) = false ∨
      inWindow q.classifier.geometry h.line.toNat = true) : walkPayload q x slot h ps =
      stepBack (skipLine (modRollback q fun y => { y with found := min (x.found + 1) 0xFFFFFFFF }))
        { x with found := min (x.found + 1) 0xFFFFFFFF, fault := true } slot h := by
  have hbad' : (anyFailed ps || !checkMatches q.classifier.geometry.identity h (payloadWords (gatheredData ps)) ||
      inWindow q.classifier.geometry h.line.toNat) = true := by
    rcases hbad with hb | hb | hb
    · simp [(anyFailed_iff _).mpr hb]
    · simp [hb]
    · simp [hb]
  simp only [walkPayload, hbad', if_true]

end

/-- Leaving a segment with a fault, in the part in the walk. -/
theorem abandonSegment_walkAt (q : Part) (y : Rollback) (st : RollbackStatus) (fl : BitVec 18) :
    abandonSegment (walkAt q y st fl) y = nextSegment (walkAt q { y with fault := true } st
      (fl ||| eventMask .rollbackFault)) { y with fault := true } := rfl

/-- The end of the list of segments: a record not reached is one more fault (R122). -/
theorem walkExhausted_walkAt (q : Part) (y : Rollback) (st : RollbackStatus) (fl : BitVec 18) :
    walkExhausted (walkAt q y st fl) y =
      if y.found < (chan q y.channel).records.toNat then
        enterRecording (walkAt q { y with fault := true } st (fl ||| eventMask .rollbackFault)) { y with fault := true }
      else enterRecording (walkAt q y st fl) y := rfl

/-- Settles O28: the rows, the record read, the step to the record before it, and the same rows once the rollback has been
stopped. -/
theorem walkRestoresLine : Obligations.WalkRestoresLine := by
  refine ⟨?_, ?_, fun x s m n => ⟨walkSeqOk_some_iff x s m n, walkSeqOk_none_iff x s n⟩⟩
  · rintro p q w t r k x s0 rest cur g ch total at' reads ends next request hi hr hx rfl hch hmarker htotal hwalk hcur hq hat
      hrequest hreads hends hnext
    obtain rfl : q = freeTag p t := hq
    have halive : rollbackAlive (freeTag p t) = true := by
      rw [rollbackAlive_served (p := freeTag p t) hx]
      exact (congrArg (·.marker.isSome) hch.symm).trans hmarker
    have hidle : walkIdle (freeTag p t) =
        walkAt (freeTag p t) { x with stage := .idle } p.restore.status p.events.flags :=
      walkIdle_served (p := freeTag p t) hx
    have hslot : cursorSlot x = cur.slot := by simp only [cursorSlot, hcur]
    have hrecords : ∀ y : Rollback, y.channel = x.channel → (chan (freeTag p t) y.channel).records.toNat = total := by
      intro y hyc
      rw [hyc, htotal, hch]
      rfl
    have hends' : ∀ y st fl, y.channel = x.channel → y.epoch = x.epoch →
        ends y st fl = enterRecording (walkAt (freeTag p t) y st fl) y := by
      intro y st fl hyc hye
      rw [enterRecording_walkAt (freeTag p t) y st fl ((congrArg _ hyc).trans hch.symm), hends, hrequest, hat, ← hyc,
        ← hye]
      rfl
    have hreads' : ∀ seg slot expected y st fl, reads seg slot expected y st fl =
        walkTo (walkAt (freeTag p t) y st fl) seg slot expected := by
      intro seg slot expected y st fl
      rw [hreads, hat]
      rfl
    have hnext' : ∀ y st fl, y.channel = x.channel → y.epoch = x.epoch → y.walk = s0 :: rest →
        next y st fl = nextSegment (walkAt (freeTag p t) y st fl) y := by
      intro y st fl hyc hye hyw
      rw [nextSegment, hyw, hnext]
      cases rest with
      | cons s1 more => exact hreads' s1.seg s1.startSlot none { y with walk := s1 :: more } st fl
      | nil =>
        refine Eq.trans ?_ (walkExhausted_walkAt (freeTag p t) { y with walk := [] } st fl).symm
        show (if y.found < total then _ else _) = if y.found < (chan (freeTag p t) y.channel).records.toNat then _ else _
        rw [hrecords y hyc, hends' { y with walk := [], fault := true } _ _ hyc hye,
          hends' { y with walk := [] } _ _ hyc hye]
    refine ⟨?_, fun a hs hbad => ?_, fun a h old ps hs hps => ?_, fun i h y st fl hcase => ?_⟩
    · rintro data _ hs rfl hshape hseq hk hc he
      have hok := (walkHeaderOk_iff p.classifier.geometry x s0 cur (headerOfBytes data)).mpr
        ⟨hshape, hseq, fun hno => absurd hk hno⟩
      rw [exec_walkHeader w hi hr hx _ hs, rollbackHeaderAnswered_done halive, hidle,
        walkHeader_reads (q := walkAt (freeTag p t) _ _ _) hwalk hcur hok ((ofRollback_iff _ _).mpr ⟨hk, hc, he⟩)]
      rfl
    · have habandon : rollbackHeaderAnswered (freeTag p t) x a = abandonSegment (walkIdle (freeTag p t)) x := by
        rcases hbad with rfl | ⟨data, _, rfl, rfl, hbad⟩
        · exact rollbackHeaderAnswered_failed halive
        · have hno : walkHeaderOk p.classifier.geometry x s0 cur (headerOfBytes data) = false := by
            rw [← Bool.not_eq_true, walkHeaderOk_iff]
            rintro ⟨hshape, hseq, hcheck⟩
            rcases hbad with hno | hno | ⟨hk, hno⟩
            · exact Bool.false_ne_true (hno.symm.trans hshape)
            · exact Bool.false_ne_true (hno.symm.trans hseq)
            · exact Bool.false_ne_true (hno.symm.trans (hcheck hk))
          rw [rollbackHeaderAnswered_done halive, walkHeader_fails (q := walkIdle (freeTag p t)) hwalk hcur hno]
      rw [exec_walkHeader w hi hr hx _ hs, habandon, hidle,
        hnext' { x with stage := .idle, fault := true } _ _ rfl rfl hwalk]
      rfl
    · obtain rfl : ps = old.set k (pieceOfAnswer a) := by
        rw [hps]
        cases a <;> rfl
      rw [exec_walkPayload w hi hr hx _ hs]
      refine ⟨fun hwaiting => ?_, fun hdone hcheck hwindow => ?_⟩
      · rw [rollbackPayloadAnswered_waiting hwaiting, modRollback_served (p := freeTag p t) hx]
        rfl
      · rw [rollbackPayloadAnswered_read halive ((allAnswered_iff _).mp (allAnswered_of_done hdone)), hidle,
          walkPayload_restores (q := walkAt (freeTag p t) _ _ _) _ hdone hcheck hwindow]
        rfl
    · obtain ⟨hexec, hyc, hye, hyw⟩ : exec i ⟨p, w⟩ =
            .next ⟨settle (stepBack (walkAt (freeTag p t) y st fl) y cur.slot h), w⟩ ∧
          y.channel = x.channel ∧ y.epoch = x.epoch ∧ y.walk = s0 :: rest := by
        rcases hcase with ⟨data, rfl, hs, rfl, hshape, hseq, hother, hcheck, rfl, rfl, rfl⟩ |
          ⟨a, old, ps, rfl, hs, hps, hall, hbad, rfl, rfl, rfl⟩ | ⟨rfl, hs, rfl, rfl, rfl⟩ | ⟨rfl, hs, rfl, rfl, rfl⟩
        · refine ⟨?_, rfl, rfl, hwalk⟩
          have hok := (walkHeaderOk_iff p.classifier.geometry x s0 cur (headerOfBytes data)).mpr ⟨hshape, hseq, hcheck⟩
          have hno : ofRollback x (headerOfBytes data) = false := by
            rw [← Bool.not_eq_true, ofRollback_iff]
            exact fun ⟨hk, hof⟩ => hother hk hof
          rw [exec_walkHeader w hi hr hx _ hs, rollbackHeaderAnswered_done halive, hidle,
            walkHeader_goesOn (q := walkAt (freeTag p t) _ _ _) hwalk hcur hok hno]
          rfl
        · refine ⟨?_, rfl, rfl, hwalk⟩
          obtain rfl : ps = old.set k (pieceOfAnswer a) := by
            rw [hps]
            cases a <;> rfl
          rw [exec_walkPayload w hi hr hx _ hs, rollbackPayloadAnswered_read halive hall, hidle, hslot,
            walkPayload_skips (q := walkAt (freeTag p t) _ _ _) _ hbad]
          rfl
        · refine ⟨?_, rfl, rfl, hwalk⟩
          rw [exec_walkRestore w hi hr hx _ hs, rollbackRestoreAnswered_done halive, hidle, hslot]
          rfl
        · refine ⟨?_, rfl, rfl, hwalk⟩
          rw [exec_walkRestore w hi hr hx _ hs, rollbackRestoreAnswered_failed halive, hidle, hslot]
          rfl
      rw [hexec, ← hrecords y hyc]
      refine ⟨fun hall => ?_, fun hmore hl hroom => ?_, fun hmore hl hseq => ?_, fun hmore hbad => ?_⟩
      · rw [stepBack_found hall, hends' _ _ _ hyc hye]
      · rw [stepBack_reads hmore hyw hl hroom, hreads']
      · rw [stepBack_leaves hmore hyw hl hseq, hnext' _ _ _ hyc hye hyw]
      · rw [stepBack_abandons hmore hyw hbad, abandonSegment_walkAt, hnext' { y with fault := true } _ _ hyc hye hyw]
  · rintro p w t r k x i y st fl hi hr hx hmarker hcase
    have hstopped : rollbackAlive (freeTag p t) = false := by
      rw [rollbackAlive_served (p := freeTag p t) hx]
      exact congrArg Option.isSome hmarker
    have hidle : walkIdle (freeTag p t) =
        walkAt (freeTag p t) { x with stage := .idle } p.restore.status p.events.flags :=
      walkIdle_served (p := freeTag p t) hx
    rcases hcase with ⟨data, rfl, hs, rfl, rfl, rfl⟩ | ⟨rfl, hs, rfl, rfl, rfl⟩ | ⟨a, h, old, ps, rfl, hs, hps, hpieces⟩ |
      ⟨h, rfl, hs, rfl, rfl, rfl⟩ | ⟨h, rfl, hs, rfl, rfl, rfl⟩
    · rw [exec_walkHeader w hi hr hx _ hs, rollbackHeaderAnswered_stopped_done hstopped, hidle]
      rfl
    · rw [exec_walkHeader w hi hr hx _ hs, rollbackHeaderAnswered_stopped_failed hstopped, hidle]
      rfl
    · obtain rfl : ps = old.set k (pieceOfAnswer a) := by
        rw [hps]
        cases a <;> rfl
      rw [exec_walkPayload w hi hr hx _ hs]
      rcases hpieces with ⟨hwaiting, rfl, rfl, rfl⟩ | ⟨hdone, rfl, rfl, rfl⟩ | ⟨hall, hfail, rfl, rfl, rfl⟩
      · rw [rollbackPayloadAnswered_waiting hwaiting, modRollback_served (p := freeTag p t) hx]
        rfl
      · rw [rollbackPayloadAnswered_stopped_done hstopped hdone, hidle]
        rfl
      · rw [rollbackPayloadAnswered_stopped_failed hstopped hall hfail, hidle]
        rfl
    · rw [exec_walkRestore w hi hr hx _ hs, rollbackRestoreAnswered_stopped_done hstopped, hidle]
      rfl
    · rw [exec_walkRestore w hi hr hx _ hs, rollbackRestoreAnswered_stopped_failed hstopped, hidle]
      rfl

end Sys2Proof.Proofs

/-! The halt of the writer, and RETURN_SEGMENT: what a halt answers and leaves, as one record; its two causes; and a HELD segment
given back (R34, R98, R101, R102, R104, R106, R124, R125, R127). -/

namespace Sys2Proof.Proofs

open Sys2Proof.Machine Sys2Proof.Laws

/-! ### What a halt strands (R34, R102, R125, log 52) -/

/-- The channels whose commit a halt fails (R34, R102). -/
def strandedCommits (p : Part) : List Chan := allChannels.filter (commitStranded p)

/-- The channel of the rollback being served that a halt stops (R125). -/
def strandedServed (p : Part) : List Chan := (rollbackStranded p).filter fun c => !(strandedCommits p).contains c

/-- The channels whose rollback a halt stops: the served one and the queued ones with a marker in progress (R125, log 53). -/
def strandedAborts (p : Part) : List Chan :=
  strandedServed p ++ p.restore.abortQueue.filter fun c =>
    (chan p c).marker.isSome && !(strandedCommits p).contains c

theorem strandedCommits_eq (p : Part) : strandedCommits p = ([0, 1, 2, 3] : List Chan).filter fun c =>
    (chan p c).marker.any fun m => m.action == .commit && !(m.record.any fun n => decide (n ≤ p.writer.frontier)) := by
  refine List.filter_congr fun c _ => ?_
  unfold commitStranded
  cases (chan p c).marker <;> rfl

/-- There is such a number, and the frontier has reached it (R100). -/
theorem behindFrontier_iff (p : Part) (n : Option Seq) :
    behindFrontier p n = true ↔ ∃ k, n = some k ∧ k ≤ p.writer.frontier := by
  simp [behindFrontier, Option.any_eq_true]

/-- A rollback has come to its end by its ABORT record, or by a drain that left nothing in the journal (R117, R124). -/
theorem rollbackDue_iff (p : Part) (x : Rollback) : rollbackDue p x = true ↔
    (∃ n, x.abortRecord = some n ∧ n ≤ p.writer.frontier) ∨
      (x.phase = .draining ∧ (∃ n, x.start = some n ∧ n ≤ p.writer.frontier) ∧ (chan p x.channel).records = 0 ∧
        (chan p x.channel).torn = false) := by
  simp [rollbackDue, behindFrontier_iff, and_assoc]

/-- The rollback being served is stranded while its marker is in progress and its end has not come (R125, log 52). -/
theorem mem_rollbackStranded (p : Part) (c : Chan) : c ∈ rollbackStranded p ↔
    ∃ x, p.restore.rollback = some x ∧ x.channel = c ∧ (chan p c).marker ≠ none ∧ rollbackDue p x = false := by
  unfold rollbackStranded
  cases p.restore.rollback with
  | none => simp
  | some x =>
    simp only [markerPresent, Bool.and_eq_true, Bool.not_eq_true', Option.isSome_iff_ne_none, List.mem_ite_nil_right,
      List.mem_singleton, Option.some.injEq, exists_eq_left']
    constructor
    · rintro ⟨⟨hm, hd⟩, rfl⟩
      exact ⟨rfl, hm, hd⟩
    · rintro ⟨rfl, hm, hd⟩
      exact ⟨⟨hm, hd⟩, rfl⟩

/-! ### The rollbacks in RECORDING (R125) -/

/-- The channels with those of a list in RECORDING (R112). -/
def inRecording (v : Vector Channel 4) (cs : List Chan) : Vector Channel 4 :=
  Vector.ofFn fun c => if c ∈ cs then { getAt v c with state := .rollingBack .recording } else getAt v c

@[simp] theorem getAt_inRecording (v : Vector Channel 4) (cs : List Chan) (c : Chan) : getAt (inRecording v cs) c =
    if c ∈ cs then { getAt v c with state := .rollingBack .recording } else getAt v c := by
  simp [inRecording, getAt]

/-- A list of channels taken to RECORDING one after another. -/
theorem foldl_setSubstate (cs : List Chan) : ∀ p : Part, cs.foldl (fun q c => setSubstate q c .recording) p =
    { p with channels := inRecording p.channels cs } := by
  induction cs with
  | nil =>
    intro p
    have hv : inRecording p.channels [] = p.channels := ext_getAt fun i => by simp
    rw [hv]
    rfl
  | cons c cs ih =>
    intro p
    have hv : inRecording (setSubstate p c .recording).channels cs = inRecording p.channels (c :: cs) := by
      refine ext_getAt fun i => ?_
      by_cases hi : c = i
      · subst hi
        simp [setSubstate, chan]
      · simp [setSubstate, getAt_setAt_ne _ _ hi, Ne.symm hi]
    rw [List.foldl_cons, ih, hv]
    rfl

/-- The rollbacks of a halt in RECORDING: the served one with no cursor, the queued ones out of the queue (R125). -/
def rollbacksRecording (p : Part) (served aborts : List Chan) : Part := { p with
  channels := inRecording p.channels aborts
  restore := { p.restore with
    abortQueue := p.restore.abortQueue.filter fun c => !aborts.contains c
    rollback := if served = [] then p.restore.rollback
      else p.restore.rollback.map fun x => { x with phase := .recording, cursor := none }
    status := if served = [] then p.restore.status else { p.restore.status with cursorSegment := none } } }

/-- The answer to a channel's marker does not look at its substate. -/
theorem answeredChannel_withState (ch : Channel) (st : ChannelState) (code : RespCode) (why : MarkerReason) :
    answeredChannel { ch with state := st } code why = { answeredChannel ch code why with state := st } := by
  unfold answeredChannel
  cases h : ch.marker <;> simp [h]

/-- Answering markers and going to RECORDING do not see each other. -/
theorem answerAll_rollbacksRecording (p : Part) (served aborts cs : List Chan) (code : RespCode) (why : MarkerReason) :
    answerAll (rollbacksRecording p served aborts) cs code why =
      rollbacksRecording (answerAll p cs code why) served aborts := by
  have hanswers : markerAnswers (rollbacksRecording p served aborts) cs code = markerAnswers p cs code := by
    refine List.filterMap_congr fun c _ => ?_
    simp only [rollbacksRecording, chan, getAt_inRecording]
    split <;> rfl
  have hchs : answeredChannels (inRecording p.channels aborts) cs code why =
      inRecording (answeredChannels p.channels cs code why) aborts := by
    refine ext_getAt fun i => ?_
    simp only [getAt_answeredChannels, getAt_inRecording]
    by_cases hc : i ∈ cs <;> by_cases ha : i ∈ aborts <;> simp only [hc, ha, if_true, if_false, answeredChannel_withState]
  rw [answerAll_eq _ _ _ _ _ le_rfl, answerAll_eq _ _ _ _ _ le_rfl, hanswers]
  simp only [rollbacksRecording, hchs]

/-- The halt takes the stranded rollbacks to RECORDING and answers their markers (R125). -/
theorem haltRollbacks_eq {p : Part} {served aborts : List Chan} (hserved : rollbackStranded p = served)
    (haborts : served ++ p.restore.abortQueue.filter (markerPresent p) = aborts) :
    haltRollbacks p = answerAll (rollbacksRecording p served aborts) aborts .failed .writerHalted := by
  have hqueue : p.restore.abortQueue.filter (fun c => !(p.restore.abortQueue.filter (markerPresent p)).contains c) =
      p.restore.abortQueue.filter fun c => !aborts.contains c := by
    refine List.filter_congr fun c hc => congrArg (!·) ?_
    have hmarker : c ∈ served → markerPresent p c = true := by
      intro h
      obtain ⟨_, -, -, hm, -⟩ := (mem_rollbackStranded p c).mp (hserved ▸ h)
      exact Option.isSome_iff_ne_none.mpr hm
    rw [Bool.eq_iff_iff, List.contains_iff_mem, List.contains_iff_mem, ← haborts, List.mem_append, List.mem_filter]
    exact ⟨.inr, fun h => h.elim (fun h => ⟨hc, hmarker h⟩) id⟩
  unfold haltRollbacks
  dsimp only
  rw [hserved, haborts, foldl_setSubstate]
  refine congrArg (fun q => answerAll q aborts .failed .writerHalted) ?_
  cases served with
  | nil => simp only [rollbacksRecording, List.isEmpty_nil, if_true, hqueue]
  | cons c cs =>
    simp only [List.isEmpty_cons, Bool.false_eq_true, if_false, rollbacksRecording, reduceCtorEq, clearCursor, modRollback,
      Option.map_map, hqueue]
    rfl

/-! ### The halt as one record (R98, R101, R102, R125) -/

/-- A channel answered has no marker in progress any more, and another keeps its own. -/
theorem marker_answerAll (p : Part) (cs : List Chan) (code : RespCode) (why : MarkerReason) (c : Chan) :
    (chan (answerAll p cs code why) c).marker = if c ∈ cs then none else (chan p c).marker := by
  rw [answerAll_eq _ _ _ _ _ le_rfl]
  simp only [chan, getAt_answeredChannels]
  split
  · unfold answeredChannel
    split <;> simp [*]
  · rfl

/-- Once the stranded commits are answered, what is stranded of the served rollback. -/
theorem rollbackStranded_answered (p : Part) (code : RespCode) (why : MarkerReason) :
    rollbackStranded (answerAll p (strandedCommits p) code why) = strandedServed p := by
  have hdue : ∀ x, rollbackDue (answerAll p (strandedCommits p) code why) x = rollbackDue p x := by
    intro x
    rw [answerAll_eq _ _ _ _ _ le_rfl]
    simp only [rollbackDue, behindFrontier, chan, getAt_answeredChannels, answeredChannel]
    split
    · split <;> rfl
    · rfl
  unfold strandedServed
  simp only [rollbackStranded, answerAll_restore, hdue, markerPresent, marker_answerAll]
  cases p.restore.rollback with
  | none => rfl
  | some x =>
    by_cases hlive : (chan p x.channel).marker.isSome = true ∧ rollbackDue p x = false
    · by_cases hc : x.channel ∈ strandedCommits p <;> simp [hlive, hc]
    · by_cases hc : x.channel ∈ strandedCommits p <;> simp [hlive, hc]

/-- The commits and the rollbacks of a halt are answered in one list (R34, R102, R125, log 11). -/
theorem haltRollbacks_answered (p : Part) :
    haltRollbacks (answerMarkers p commitStranded .failed .writerHalted) =
      rollbacksRecording (answerAll p (strandedCommits p ++ strandedAborts p) .failed .writerHalted) (strandedServed p)
        (strandedAborts p) := by
  have hcommits : answerMarkers p commitStranded .failed .writerHalted =
      answerAll p (strandedCommits p) .failed .writerHalted :=
    answerMarkers_eq p _ _ _ (commitStranded_local _ _)
  have haborts : strandedServed p ++ (answerAll p (strandedCommits p) .failed .writerHalted).restore.abortQueue.filter
      (markerPresent (answerAll p (strandedCommits p) .failed .writerHalted)) = strandedAborts p := by
    rw [answerAll_restore, strandedAborts]
    refine congrArg _ (List.filter_congr fun c _ => ?_)
    rw [markerPresent, marker_answerAll]
    by_cases hc : c ∈ strandedCommits p <;> simp [hc]
  rw [hcommits, haltRollbacks_eq (rollbackStranded_answered p _ _) haborts, answerAll_rollbacksRecording,
    answerAll_append]

/-- The write entries that a halt answers REFUSED (R102). -/
def haltedOut (p : Part) : List HoldEntry := p.hold.queue.filter fun e => e.isWrite && e.state != .forwarding

/-- The answers of a halt, in their order (log 11). -/
def haltAnswers (p : Part) : List Response :=
  markerAnswers p (strandedCommits p ++ strandedAborts p) .failed ++
    (haltedOut p).map fun e => { tag := e.req.tag, code := .refused, data := [] }

/-- The channels after a halt (R34, R102, R125). -/
def haltedChannels (p : Part) : Vector Channel 4 :=
  inRecording (answeredChannels p.channels (strandedCommits p ++ strandedAborts p) .failed .writerHalted)
    (strandedAborts p)

/-- The halt as a record (R98, R101, R102, R125). -/
theorem haltWriter_eq (p : Part) (cause : HaltCause) (seg : Nat) : haltWriter p cause seg = { p with
    port := { p.port with tags := (haltAnswers p).foldl (fun v x => setAt v x.tag false) p.port.tags,
                          responses := p.port.responses ++ haltAnswers p },
    tracker := [],
    hold := { p.hold with
      queue := p.hold.queue.filter fun x => !((haltedOut p).any fun e => e.req.tag == x.req.tag),
      lineTest := p.hold.lineTest || !(haltedOut p).isEmpty, headRetry := p.hold.headRetry || !(haltedOut p).isEmpty },
    slots := disowned (haltedOut p) p.slots,
    writer := { p.writer with state := .halted, haltCause := cause, haltSegment := some seg, waiting := [] },
    channels := haltedChannels p,
    restore := { p.restore with
      abortQueue := p.restore.abortQueue.filter fun c => !(strandedAborts p).contains c,
      rollback := if strandedServed p = [] then p.restore.rollback
        else p.restore.rollback.map fun x => { x with phase := .recording, cursor := none },
      status := if strandedServed p = [] then p.restore.status
        else { p.restore.status with cursorSegment := none } },
    events := { p.events with flags := p.events.flags ||| eventMask .writerHalted } } := by
  have h : haltWriter p cause seg = { refuseUnforwarded
      (haltRollbacks (answerMarkers (halting p cause seg) commitStranded .failed .writerHalted)) with tracker := [] } := rfl
  rw [h, haltRollbacks_answered, answerAll_eq _ _ _ _ _ le_rfl, refuseUnforwarded, dismissAll_eq]
  simp only [afterDismissal, rollbacksRecording, List.any_nil, Bool.false_eq_true, if_false, List.map_id', haltAnswers,
    List.foldl_append, List.foldl_map, ← List.append_assoc]
  rfl

/-- Every rollback that a halt stops has a marker in progress, and so has every commit it fails. -/
theorem marker_of_stranded {p : Part} {c : Chan} (h : c ∈ strandedCommits p ++ strandedAborts p) :
    (chan p c).marker.isSome = true := by
  rcases List.mem_append.mp h with h | h
  · have hc := (List.mem_filter.mp h).2
    unfold commitStranded at hc
    cases hm : (chan p c).marker with
    | none => simp [hm] at hc
    | some m => rfl
  · rcases List.mem_append.mp h with h | h
    · obtain ⟨_, -, -, hm, -⟩ := (mem_rollbackStranded p c).mp (List.mem_filter.mp h).1
      exact Option.isSome_iff_ne_none.mpr hm
    · exact (Bool.and_eq_true_iff.mp (List.mem_filter.mp h).2).1

/-- The channels after a halt, by what it strands of each. -/
theorem haltedChannels_unique {p : Part} {chs : Vector Channel 4}
    (h : ∀ c, getAt chs c = if c ∈ strandedCommits p ∨ c ∈ strandedAborts p then
        { chan p c with
          state := if c ∈ strandedAborts p then .rollingBack .recording else (chan p c).state, marker := none,
          last := { (chan p c).last with result := .failed, reason := .writerHalted } }
      else chan p c) : chs = haltedChannels p := by
  refine ext_getAt fun c => ?_
  rw [h, haltedChannels, getAt_inRecording, getAt_answeredChannels]
  simp only [← List.mem_append]
  by_cases hc : c ∈ strandedCommits p ++ strandedAborts p
  · obtain ⟨m, hm⟩ := Option.isSome_iff_exists.mp (marker_of_stranded hc)
    have hm' : (getAt p.channels c).marker = some m := hm
    simp only [hc, if_true, answeredChannel, hm', chan]
    split <;> rfl
  · have ha : c ∉ strandedAborts p := fun ha => hc (List.mem_append_right _ ha)
    simp only [hc, ha, if_false, chan]

/-! ### Its causes (R98, R101) -/

/-- RECORD_WRITE_FAILED of a record or header write (R101). -/
theorem exec_recordWriteFailed {p : Part} {t : DTag} {r : DownReq} (w : List Instr)
    (hi : getAt p.arbiter.issued t = some r) (hr : r.purpose.requester = .rw) :
    exec (.recordWriteFailed t) ⟨p, w⟩ = .next ⟨settle (journalWriteFailed (freeTag p t) r.purpose), w⟩ := by
  have hi' : issuedAt p t = some r := hi
  have hw : recordWriteOf p t = some r.purpose := by simp only [recordWriteOf, hi', hr]; rfl
  show Host.Outcome.next (State.mk (match recordWriteOf p t with
    | none => p
    | some x => settle (journalWriteFailed (freeTag p t) x)) w) = _
  rw [hw]

/-- The write of the answer, noted as failed. -/
def failureNoted (p : Part) (u : Purpose) : Part := modJournal p u fun x => { x with failed := true }

/-- A failure halts a RUNNING, SUSPENDED or FROZEN writer with the segment of the write (R101). -/
theorem journalWriteFailed_halts {p : Part} {u : Purpose} {j : JournalWrite}
    (hj : p.writer.journal.find? (isFor u) = some j)
    (hs : p.writer.state = .running ∨ p.writer.state = .suspended ∨ p.writer.state = .frozen) :
    journalWriteFailed p u = haltWriter (failureNoted p u) .recordWriteFault j.seg := by
  have hseg : journalSegment p u = j.seg := by simp only [journalSegment, hj]
  rcases hs with hs | hs | hs <;> simp only [journalWriteFailed, hs, hseg, failureNoted]

/-- With the writer HALTED or STOPPED it is noted and nothing else (R101). -/
theorem journalWriteFailed_noted {p : Part} (u : Purpose)
    (hs : p.writer.state = .halted ∨ p.writer.state = .stopped) : journalWriteFailed p u = failureNoted p u := by
  rcases hs with hs | hs <;> simp only [journalWriteFailed, hs, failureNoted]

/-- A halted part settled: the halt stands, and the rest that internal work never touches is as before. -/
theorem settle_haltWriter {p u : Part} {cause : HaltCause} {seg : Nat} (hu : settle (haltWriter p cause seg) = u) :
    u.writer.state = .halted ∧ u.writer.haltCause = cause ∧ u.writer.haltSegment = some seg ∧
      eventSet u .writerHalted = true ∧ u.arbiter.issued = p.arbiter.issued ∧ u.classifier = p.classifier ∧
      u.link = p.link ∧ u.command = p.command ∧ u.power = p.power := by
  obtain ⟨-, hwriter, hflags, -, hrest⟩ := settle_keeps (haltWriter p cause seg)
  rw [hu, haltWriter_eq] at hwriter hrest
  simp only [untouched, Prod.mk.injEq] at hrest
  obtain ⟨⟨hclassifier, hlink, hcommand, hpower, -⟩, ⟨-, -, -, hissued, -⟩, -⟩ := hrest
  have hset : eventSet (haltWriter p cause seg) .writerHalted = true := by
    rw [haltWriter_eq]
    exact eventSet_raiseEvent_self p .writerHalted
  have hset' : eventSet u .writerHalted = true := by
    rw [eventSet_eq] at hset ⊢
    rw [← hu]
    exact hflags _ hset
  rcases hwriter with hwriter | ⟨hmoves, -⟩
  · simp only [standing, Prod.mk.injEq] at hwriter
    obtain ⟨hstate, hcause, hseg⟩ := hwriter
    exact ⟨hstate.symm, hcause.symm, hseg.symm, hset', hissued, hclassifier, hlink, hcommand, hpower⟩
  · exact absurd hmoves (by simp [standing])

section
variable {p : Part} {r : PlaceReq} {i : Nat} {e : SegEntry} (hacc : accepts p r.kind = true)
  (hactive : activeEntry p.writer = some (i, e))
include hacc hactive

/-- A record that fits, with no number left for it, halts the writer (R98). -/
theorem place_exhausted_fitting (hfits : fitsActive p.classifier.geometry p.writer r.kind = true)
    (hnext : 281474976710654 < p.writer.next) : place p r = (haltWriter p .sequenceExhausted i, none) := by
  have hnext' : ¬ p.writer.next ≤ Config.maxSeq := Nat.not_le.mpr hnext
  simp only [place, hacc, hactive, hfits, hnext', if_true, if_false]

/-- One that opens a segment, with no number left for the PAD and for it, halts it too (R98). -/
theorem place_exhausted_opening (hfits : fitsActive p.classifier.geometry p.writer r.kind = false)
    (hopen : mayOpen p.writer r.kind = true)
    (hnext : 281474976710654 < p.writer.next + (if e.used < slotsPerSegment p.classifier.geometry then 1 else 0)) :
    place p r = (haltWriter p .sequenceExhausted i, none) := by
  have hpads : (if slotsFree p.classifier.geometry e = 0 then 0 else 1) =
      if e.used < slotsPerSegment p.classifier.geometry then 1 else 0 := by
    unfold slotsFree
    split <;> split <;> omega
  have hnext' : ¬ p.writer.next + (if slotsFree p.classifier.geometry e = 0 then 0 else 1) ≤ Config.maxSeq := by
    rw [hpads]
    exact Nat.not_le.mpr hnext
  simp only [place, hacc, hactive, hfits, hopen, hnext', if_true, if_false, Bool.false_eq_true]

end

/-- The journal write of an answer: a record by its number, a header by its segment. -/
theorem isFor_iff (u : Purpose) (j : JournalWrite) : isFor u j = true ↔
    (∃ n, u = .record n ∧ j.isHeader = false ∧ j.seq = n) ∨ (∃ i, u = .header i ∧ j.isHeader = true ∧ j.seg = i) := by
  cases u
  case record n => simp [isFor, and_comm, eq_comm (a := n)]
  case header i => simp [isFor, and_comm, eq_comm (a := i)]
  all_goals simp [isFor]

/-- Settles O26: the halt as one record, its two causes, and what it strands by its own characterisation. -/
theorem recordWriteFailedHalts : Obligations.RecordWriteFailedHalts := by
  refine ⟨fun p cause seg commits served aborts refused done chs hcommits hserved haborts hrefused hdone hchs => ?_,
    fun p q w t r j hi hr hj hq => ⟨fun hs => ?_, fun hs => ?_⟩, fun p r i e hacc hactive h => ?_, fun p c => ?_, isFor_iff⟩
  · rw [← strandedCommits_eq] at hcommits
    subst hcommits hserved haborts hrefused hdone
    obtain rfl := haltedChannels_unique hchs
    rw [haltWriter_eq]
    rfl
  · have hq' : failureNoted (freeTag p t) r.purpose = q := hq.symm
    obtain ⟨u, hu⟩ : ∃ u, settle (haltWriter q .recordWriteFault j.seg) = u := ⟨_, rfl⟩
    obtain ⟨hstate, hcause, hseg, hset, hissued, hclassifier, hlink, hcommand, hpower⟩ := settle_haltWriter hu
    refine ⟨u, hu.symm, ?_, hstate, hcause, hseg, hset, ?_, ?_⟩
    · rw [exec_recordWriteFailed w hi hr, journalWriteFailed_halts (p := freeTag p t) hj hs, hq', hu]
    · rw [hissued, hq]
      exact getAt_setAt_self ..
    · rw [hclassifier, hlink, hcommand, hpower, hq]
      exact ⟨rfl, rfl, rfl, rfl⟩
  · rw [exec_recordWriteFailed w hi hr, journalWriteFailed_noted (p := freeTag p t) r.purpose hs, hq]
    rfl
  · rcases h with ⟨hfits, hnext⟩ | ⟨hfits, hopen, hnext⟩
    · exact place_exhausted_fitting hacc hactive hfits hnext
    · exact place_exhausted_opening hacc hactive hfits hopen hnext
  · rw [mem_rollbackStranded]
    refine exists_congr fun x => and_congr_right fun _ => and_congr_right fun hc => and_congr_right fun _ => ?_
    rw [← Bool.not_eq_true, rollbackDue_iff, not_or, hc]

/-! ### RETURN_SEGMENT (R104, R106) -/

/-- RETURN_SEGMENT of a HELD segment (R106). -/
theorem judgeReturn_held {p : Part} {n : Nat} {e : SegEntry} (hf : p.classifier.inForce = true)
    (hn : n < p.classifier.geometry.count.toNat) (he : p.writer.table[n]? = some e) (hs : e.state = .held) :
    judgeReturn p n = returnHeld p n := by
  simp [judgeReturn, hf, Nat.not_le.mpr hn, he, hs]

/-- What waits for space is tested without touching the link. -/
theorem returnHeld_link (p : Part) (n : Nat) : (returnHeld p n).link = p.link := by
  obtain ⟨-, -, -, -, hrest⟩ := settle_keeps (commandDone { p with writer := { p.writer with
    table := p.writer.table.modify n fun e => { e with state := .free } } } .returnSegment)
  simp only [untouched, Prod.mk.injEq] at hrest
  obtain ⟨⟨-, hlink, -⟩, -⟩ := hrest
  exact hlink

/-- Settles O42: the judgement of the command with its conditions met. -/
theorem returnedSegmentIsFree : Obligations.ReturnedSegmentIsFree := by
  intro p w n e hl hb hf hn he hs
  exact exec_returnSegment w hl ((unlessBusy_free hb _ _).trans (judgeReturn_held hf hn he hs)) (returnHeld_link p n)

end Sys2Proof.Proofs

/-! The beginning of a rollback: the head of the abort queue is served, its drain settles, and the rollback leaves DRAINING for
its walk or for its ABORT record (R112, R114 to R118, R122, R123, logs 9, 45 and 56). -/

namespace Sys2Proof.Proofs

open Sys2Proof.Machine Sys2Proof.Laws

/-! ### The abort queue and the drain (R114 to R116) -/

theorem draining_iff (p : Part) : draining p = true ↔ p.command.busy = .softReset := by
  simp [draining]

/-- The head of the abort queue is taken when no rollback is served, the writer is in service and no soft reset drains
(R114, R127). -/
theorem abortStep_serves {p : Part} {c : Chan} {rest : List Chan} (hr : p.restore.rollback = none)
    (hq : p.restore.abortQueue = c :: rest) (hw : p.writer.state = .running ∨ p.writer.state = .suspended)
    (hb : p.command.busy ≠ .softReset) : abortStep p = some (serveAbort p c rest) := by
  have hd : draining p = false := by rw [← Bool.not_eq_true, draining_iff]; exact hb
  rcases hw with hw | hw <;> simp [abortStep, hr, hq, hw, hd]

theorem mem_epochWrites (p : Part) (c : Chan) (n : Epoch) (e : HoldEntry) :
    e ∈ epochWrites p c n ↔ e ∈ p.hold.queue ∧ e.isWrite = true ∧ e.channel = c ∧ e.epoch = some n := by
  simp [epochWrites, and_assoc]

/-- The entries answered at once are those that wait, those in RECORDING, and those in COPYING with no read in flight (R115,
R116). -/
theorem drainedOut_eq (e : HoldEntry) : Laws.drainedOut e =
    (e.state == .waitLine || e.state == .waitCopy || e.state == .waitSpace || e.state == .recording ||
      (e.state == .copying && e.lines.all fun l => l.sub != .copying)) := by
  cases hs : e.state
  case copying => simp [Laws.drainedOut, hs, List.not_any_eq_all_not, bne]
  all_goals simp [Laws.drainedOut, hs]

/-- The part as the drain of channel c begins, before any entry is answered (R112, R114). -/
def drainBegun (p : Part) (c : Chan) (rest : List Chan) : Part := { p with
  channels := setAt p.channels c { chan p c with state := .rollingBack .draining },
  restore := { p.restore with
    abortQueue := rest, rollback := some (freshRollback c (chan p c).epoch),
    status := { channel := some c, restored := 0, skipped := 0, cursorSegment := none } } }

theorem serveAbort_drainBegun (p : Part) (c : Chan) (rest : List Chan) : serveAbort p c rest =
    (epochWrites p c (chan p c).epoch).foldl drainEntry (drainBegun p c rest) := rfl

/-- A COPYING entry of the epoch is withheld from the moment its drain begins (R116). -/
theorem withheld_drainBegun {p : Part} {c : Chan} {rest : List Chan} {e : HoldEntry}
    (he : e ∈ epochWrites p c (chan p c).epoch) (hs : e.state = .copying) : withheld (drainBegun p c rest) e = true := by
  obtain ⟨-, hw, hc, hn⟩ := (mem_epochWrites ..).mp he
  simp [withheld, drainBegun, freshRollback, hw, hc, hn, hs]

/-- The drain as one record: the entries that leave at once, and those that give up their images and wait (R115, R116). -/
theorem serveAbort_eq {p : Part} {c : Chan} {rest : List Chan} (hn : (p.hold.queue.map fun x => x.req.tag).Nodup)
    (hf : p.power.frozen = false) : serveAbort p c rest = afterDismissal (drainBegun p c rest)
      ((epochWrites p c (chan p c).epoch).filter Laws.drainedOut) ((epochWrites p c (chan p c).epoch).filter drainedLater)
      .refused := by
  rw [serveAbort_drainBegun]
  exact drainEntries_eq (drainBegun p c rest) _ hn List.filter_sublist hf fun _ he hs => withheld_drainBegun he hs

/-! ### The start point and the walk list (R117, R118) -/

/-- The drain has settled with no write entry of the epoch left and nothing outstanding (R117). -/
theorem drainSettled_iff (p : Part) (x : Rollback) : drainSettled p x = true ↔
    (∀ e ∈ p.hold.queue, e.isWrite = true → e.channel = x.channel → e.epoch ≠ some x.epoch) ∧
      (chan p x.channel).outstanding = 0 := by
  simp [drainSettled, List.isEmpty_iff, List.eq_nil_iff_forall_not_mem, mem_epochWrites]

section
variable {p : Part} {x : Rollback} (hx : p.restore.rollback = some x)
  (hm : (chan p x.channel).marker.isSome = true) (ha : x.abortRecord = none) (hph : x.phase = .draining)

include hx hm ha hph

/-- A rollback that drains waits for its entries and its outstanding writes, then fixes its start point (R117). -/
theorem rollbackStep_unsettled (hs : x.start = none) :
    rollbackStep p = if drainSettled p x then some (fixStart p x) else none := by
  simp only [rollbackStep, hx, (rollbackAlive_served hx).trans hm, ha, hph, hs, if_true]

/-- With its start point fixed it waits for the frontier, then leaves DRAINING (R117). -/
theorem rollbackStep_settled {s : Seq} (hs : x.start = some s) :
    rollbackStep p = if s ≤ p.writer.frontier then some (leaveDraining p x) else none := by
  simp only [rollbackStep, hx, (rollbackAlive_served hx).trans hm, ha, hph, hs, if_true]

end

/-- A channel is in a segment's mask when its bit is set (R93). -/
theorem and_maskBit_ne_zero (m : BitVec 4) (c : Chan) : (m &&& maskBit c != 0) = m.getLsbD c.val := by
  revert m c; decide

/-- The segments that are walked, and how each stands in the walk list (R118). -/
theorem walkSegment_eq (c : Chan) (s : Seq) (i : Nat) (e : SegEntry) : walkSegment c s i e =
    if e.mask.getLsbD c.val = true ∧ (e.state = .closed ∨ e.state = .active) ∧ 2 < e.used ∧ e.first ≤ s then
      some { seg := i, startSlot := e.used - e.lastLen, first := e.first, endsAtS := decide (e.state = .active) }
    else none := by
  simp only [walkSegment, and_maskBit_ne_zero, Bool.and_eq_true, Bool.or_eq_true, beq_iff_eq, decide_eq_true_eq, and_assoc]
  rfl

/-! ### The ways out of DRAINING (R117, R119, R122, R123) -/

section
variable {p : Part} {x : Rollback} (hx : p.restore.rollback = some x)

/-- The part whose rollback has gone on to RESTORING (R112). -/
def restoringBegun (p : Part) (x : Rollback) : Part :=
  walkAt (setSubstate p x.channel .restoring) { x with phase := .restoring } p.restore.status p.events.flags

include hx

/-- A rollback whose epoch left records begins its walk (R117, R119). -/
theorem leaveDraining_walks (hr : (chan p x.channel).records ≠ 0) :
    leaveDraining p x = walkFrom (restoringBegun p x) x x.walk := by
  have hr' : ((chan p x.channel).records == 0) = false := beq_eq_false_iff_ne.mpr hr
  simp only [leaveDraining, hr', modRollback_served hx, Bool.false_and, Bool.false_eq_true, if_false]
  rfl

/-- A torn epoch without records ends its walk as it begins (log 56). -/
theorem leaveDraining_torn (hr : (chan p x.channel).records = 0) (ht : (chan p x.channel).torn = true) :
    leaveDraining p x = enterRecording (restoringBegun p x) { x with phase := .restoring } := by
  have hr' : ((chan p x.channel).records == 0) = true := beq_iff_eq.mpr hr
  simp only [leaveDraining, hr', ht, modRollback_served hx, Bool.not_true, Bool.and_false, Bool.false_eq_true, if_false,
    if_true]
  rfl

end

/-- The first segment of the walk list is read at its start slot (R117, R119). -/
theorem walkFrom_cons {p : Part} {x : Rollback} {s0 : WalkSegment} {rest : List WalkSegment} (hw : x.walk = s0 :: rest) :
    walkFrom (restoringBegun p x) x x.walk = walkTo (restoringBegun p x) s0.seg s0.startSlot none := by
  cases x
  subst hw
  rfl

/-- With no segment in the walk list the walk ends (R122). -/
theorem walkFrom_nil {p : Part} {x : Rollback} (hw : x.walk = []) :
    walkFrom (restoringBegun p x) x x.walk = walkExhausted (restoringBegun p x) { x with phase := .restoring } := by
  cases x
  subst hw
  rfl

/-- With no segment to walk and no record found, the records not reached are one fault (R122). -/
theorem walkFrom_faults {p : Part} {x : Rollback} (hr : (chan p x.channel).records ≠ 0) (hw : x.walk = [])
    (hf : x.found = 0) : walkFrom (restoringBegun p x) x x.walk =
      enterRecording (walkAt (setSubstate p x.channel .restoring) { x with phase := .restoring, fault := true }
        p.restore.status (p.events.flags ||| eventMask .rollbackFault)) { x with phase := .restoring, fault := true } := by
  have hmore : x.found < (chan (setSubstate p x.channel .restoring) x.channel).records.toNat := by
    rw [setSubstate, chan_modChan_self, hf]
    exact Nat.pos_of_ne_zero fun h => hr (BitVec.eq_of_toNat_eq h)
  rw [walkFrom_nil hw, restoringBegun, walkExhausted_walkAt, if_pos hmore]

/-- The ABORT record is asked for in the part whose rollback is in RECORDING; it waits when it cannot be placed (R122, R123). -/
theorem enterRecording_eq_place {p u : Part} {y : Rollback} {ch : Channel} {req : PlaceReq} {fl : BitVec 18}
    (hch : ch = chan p y.channel)
    (hu : u = { p with
      channels := setAt p.channels y.channel { ch with state := .rollingBack .recording },
      restore := { p.restore with
        rollback := some { y with phase := .recording, stage := .idle, cursor := none },
        status := { p.restore.status with cursorSegment := none } },
      events := { p.events with flags := fl } })
    (hreq : req = { kind := .abort, channel := y.channel, epoch := y.epoch, torn := ch.torn, fault := y.fault,
                    overflowed := ch.overflow, line := 0, region := 0xFFFF, image := [], undoCount := ch.records }) :
    enterRecording (walkAt (setSubstate p y.channel .restoring) y p.restore.status fl) y =
      match place u req with
      | (v, some n) => { v with restore := { v.restore with
          rollback := v.restore.rollback.map fun z => { z with abortRecord := some n } } }
      | (v, none) => if v.restore.rollback.any fun z => (chan v z.channel).marker.isSome
          then { v with writer := { v.writer with waiting := v.writer.waiting ++ [req] } } else v := by
  have hq : chan (setSubstate p y.channel .restoring) y.channel = { ch with state := .rollingBack .restoring } := by
    rw [hch]
    exact chan_modChan_self ..
  refine (enterRecording_walkAt _ _ _ _ hq).trans ?_
  simp only [setSubstate, modChan_channels, setAt_setAt]
  subst hu hreq
  rfl

/-- Settles O27: the queue, the drain as one record, its start point and walk list, and the two ways out of DRAINING. -/
theorem rollbackIsStarted : Obligations.RollbackIsStarted := by
  refine ⟨fun p hidle => ?_, ?_, ?_⟩
  · rw [abortStep_eq_none_iff, draining_iff, ← Option.isSome_iff_ne_none]
    exact hidle
  · rintro p c aborts mine gone kept hr hq hw hb hf hn rfl rfl rfl
    rw [abortStep_serves hr hq hw hb, serveAbort_eq hn hf, funext drainedOut_eq]
    rfl
  · intro p x hx hm ha hph
    refine ⟨fun hs => ?_, fun s hs hlate => ?_, fun s s0 rest hs hle hr hw => ?_,
      fun s fault ch u req hs hle hch hcase hu hreq => ?_⟩
    · rw [rollbackStep_unsettled hx hm ha hph hs]
      refine ⟨fun hbusy => if_neg fun hd => ?_, fun hgone hout => ?_⟩
      · obtain ⟨hgone, hout⟩ := (drainSettled_iff p x).mp hd
        rcases hbusy with ⟨e, he, hwrite, hc, hn⟩ | hbusy
        · exact hgone e he hwrite hc hn
        · exact hbusy hout
      · rw [if_pos ((drainSettled_iff p x).mpr ⟨hgone, hout⟩)]
        obtain ⟨hperm, hdesc⟩ := walkList_spec p x.channel (p.writer.next - 1)
        refine ⟨walkList p x.channel (p.writer.next - 1), ?_, hdesc, ?_⟩
        · rw [fixStart, modRollback_served hx]
          rfl
        · simp only [walkSegment_eq] at hperm
          exact hperm
    · rw [rollbackStep_settled hx hm ha hph hs, if_neg (Nat.not_le.mpr hlate)]
    · rw [rollbackStep_settled hx hm ha hph hs, if_pos hle, leaveDraining_walks hx hr, walkFrom_cons hw]
      rfl
    · rw [rollbackStep_settled hx hm ha hph hs, if_pos hle]
      rcases hcase with ⟨hr, ht, rfl⟩ | ⟨hr, hw, hfound, rfl⟩
      · rw [Bool.or_false] at hu hreq
        rw [leaveDraining_torn hx (hch ▸ hr) (hch ▸ ht)]
        exact congrArg some (enterRecording_eq_place (y := { x with phase := .restoring }) hch hu hreq)
      · rw [Bool.or_true] at hu hreq
        rw [leaveDraining_walks hx (hch ▸ hr), walkFrom_faults (hch ▸ hr) hw hfound]
        exact congrArg some (enterRecording_eq_place (y := { x with phase := .restoring, fault := true }) hch hu hreq)

end Sys2Proof.Proofs

/-! FORMAT's header writes answered: the EMPTY headers in ascending order, the ACTIVE header after the last of them, and a write
answered FAILED (R130, R138, R140). -/

namespace Sys2Proof.Proofs

open Sys2Proof.Machine Sys2Proof.Laws

/-! ### The row (R130) -/

section
variable {p : Part} {t : DTag} {r : DownReq} {k s : Nat} (w : List Instr)
  (hi : getAt p.arbiter.issued t = some r) (hr : r.purpose = .recovery k) (hs : p.restore.stage = .formatHeader s)
  (hb : p.command.busy = .format) (hf : p.power.frozen = false)

/-- While FORMAT runs unfrozen an answer takes its course. -/
theorem unlessStopped_formatting (hb : p.command.busy = .format) (hf : p.power.frozen = false) (t : DTag) (go : Part) :
    unlessStopped (freeTag p t) go = go :=
  unlessStopped_eq (p := freeTag p t) (by simp [hb]) hf go

include hi hr hs hb hf

/-- The write of an EMPTY header is answered DONE: FORMAT goes on with the segments above it. -/
theorem exec_formatHeader_done : exec (.formatHeaderWriteAnswered t .done) ⟨p, w⟩ =
    .next ⟨formatFrom (freeTag p t) ((formatSegments p.classifier.geometry).filter fun j => decide (s < j)), w⟩ := by
  show Host.Outcome.next (State.mk (formatRow p t _) w) = _
  simp only [formatRow, recoveryWriteRow, recoveryPieceOf_eq hi hr, hs, formatAnswered, freeTag_classifier,
    unlessStopped_formatting hb hf]

/-- It is answered FAILED: FORMAT ends with REBASE_FAULT and the header's segment (R140). -/
theorem exec_formatHeader_failed : exec (.formatHeaderWriteAnswered t .failed) ⟨p, w⟩ =
    .next ⟨recoveryFails (freeTag p t) .rebaseFault (atSegment s), w⟩ := by
  show Host.Outcome.next (State.mk (formatRow p t _) w) = _
  simp only [formatRow, recoveryWriteRow, recoveryPieceOf_eq hi hr, hs, formatAnswered, unlessStopped_formatting hb hf]

end

/-! ### The next header, and the failure (R130, R138, R140) -/

/-- With segments left, the first of them gets its EMPTY header. -/
theorem formatFrom_cons (p : Part) (j : Nat) (rest : List Nat) :
    formatFrom p (j :: rest) = writeHeader p (.formatHeader j) j false 0 noEpochs := rfl

/-- With none left, the lowest usable segment gets the ACTIVE header, with first sequence number 1. -/
theorem formatFrom_nil {p : Part} {j : Nat} (h : (usableSegments p.classifier.geometry).head? = some j) :
    formatFrom p [] = writeHeader p (.activeHeader j) j true 1 noEpochs := by
  have hj : lowestUsable p.classifier.geometry = j := by rw [lowestUsable, List.headD_eq_head?_getD, h, Option.getD_some]
  show formatActive p = _
  rw [formatActive, hj]

/-- A failure of the busy command, whichever it is, as a record (R140). -/
theorem recoveryFails_of_busyName {p : Part} {name : CommandName} (h : busyName p = name) (why : FailureReason)
    (x : FaultPlace) : recoveryFails p why x = { p with
      restore := { p.restore with
        recovery := .failed, lastFailure := why, stage := .idle, left := [],
        report := { p.restore.report with outcome := .failed, reason := why, faultSegment := x.seg, faultSeq := x.seq,
                                          faultLine := x.line, secondSegment := x.second } },
      command := { busy := .none, last := { command := name, result := .failed, reason := why.asReason,
                                            detail := .none, overlap := 0 } },
      events := { p.events with flags := p.events.flags ||| eventMask .recoveryFailed } } := by
  rw [← h]
  rfl

/-- Settles O33: the row, and the header that FORMAT writes next by the segments left above the one answered. -/
theorem formatWritesHeadersInOrder : Obligations.FormatWritesHeadersInOrder := by
  intro p w t r k s hi hr hs hb hf
  have hname : busyName (freeTag p t) = .format := by
    show busyName p = .format
    simp only [busyName, hb]
  refine ⟨fun j rest hleft => ?_, fun j hnone hlow => ?_, ?_⟩
  · rw [exec_formatHeader_done w hi hr hs hb hf, formatSegments, hleft, formatFrom_cons]
    rfl
  · rw [exec_formatHeader_done w hi hr hs hb hf, formatSegments, hnone, formatFrom_nil (p := freeTag p t) hlow]
    rfl
  · rw [exec_formatHeader_failed w hi hr hs hb hf, recoveryFails_of_busyName hname]
    rfl

end Sys2Proof.Proofs

/-! The memory path: a request at the upstream port, the arbiter's turn, and the rows that change nothing because their event
cannot happen (R145 to R156, R168). -/

namespace Sys2Proof.Proofs

open Sys2Proof.Machine Sys2Proof.Laws

/-! ### A request at the upstream port (R145, R147, R148) -/

/-- The port takes a request with room in the intake queue and no drain (R145). -/
theorem portOpen_iff (p : Part) : portOpen p = true ↔ p.port.intake.length < 16 ∧ p.command.busy ≠ .softReset := by
  rw [portOpen, Bool.and_eq_true, decide_eq_true_eq, Bool.not_eq_true', ← Bool.not_eq_true, draining_iff]
  rfl

/-- A request that is not empty crosses a block boundary when its first and last bytes lie in two blocks (R148). -/
theorem crossesBlock_iff {r : Request} (h : r.len ≠ 0) :
    crossesBlock r = true ↔ r.addr.toNat / 256 ≠ (r.addr.toNat + r.len - 1) / 256 := by
  rw [crossesBlock, bne_iff_ne, ← Nat.add_sub_assoc (Nat.pos_of_ne_zero h), blockNumber, blockNumber]

section
variable {p : Part} {r : Request}

/-- While the port takes no request, one presented waits where it is (R145, log 3). -/
theorem requestPresented_closed (h : 16 ≤ p.port.intake.length ∨ p.command.busy = .softReset) :
    requestPresented p r = p :=
  if_neg fun hopen => by
    obtain ⟨hroom, hdrain⟩ := (portOpen_iff p).mp hopen
    exact h.elim (Nat.not_le.mpr hroom) hdrain

variable (hopen : portOpen p = true)
include hopen

/-- A request whose tag is outstanding is discarded as a protocol error (R147). -/
theorem requestPresented_tagInUse (ht : tagOutstanding p r.tag = true) :
    requestPresented p r = protocolError p r .tagInUse := by
  rw [requestPresented, if_pos hopen, if_pos ht]

variable (ht : tagOutstanding p r.tag = false)
include ht

/-- With a free tag the length is tested before the block boundary (R148). -/
theorem requestPresented_malformed
    (h : r.len = 0 ∨ 256 < r.len ∨ r.addr.toNat / 256 ≠ (r.addr.toNat + r.len - 1) / 256) :
    requestPresented p r =
      respond (protocolError p r (if r.len = 0 ∨ 256 < r.len then .badLength else .blockCrossing)) r.tag .refused [] := by
  rw [requestPresented, if_pos hopen, if_neg (ne_true_of_eq_false ht)]
  by_cases hlen : r.len = 0 ∨ 256 < r.len
  · rw [if_pos hlen, if_pos hlen]
  · obtain ⟨hpos, hmax⟩ := not_or.mp hlen
    have hcross : crossesBlock r = true := (crossesBlock_iff hpos).mpr ((h.resolve_left hpos).resolve_left hmax)
    rw [if_neg hlen, if_pos hcross, if_neg hlen]

/-- With a free tag and neither fault the request joins the intake queue (R145, R148). -/
theorem requestPresented_accepted
    (h : ¬ (r.len = 0 ∨ 256 < r.len ∨ r.addr.toNat / 256 ≠ (r.addr.toNat + r.len - 1) / 256)) :
    requestPresented p r = acceptRequest p r := by
  obtain ⟨hpos, hmax, hblock⟩ : r.len ≠ 0 ∧ ¬ 256 < r.len ∧ _ := by simpa only [not_or] using h
  rw [requestPresented, if_pos hopen, if_neg (ne_true_of_eq_false ht), if_neg (not_or.mpr ⟨hpos, hmax⟩),
    if_neg (mt (crossesBlock_iff hpos).mp hblock)]

end

/-- UPSTREAM_REQUEST is the presentation of its request (R145). -/
theorem exec_upstreamRequest (r : Request) (p : Part) (w : List Instr) :
    exec (.upstreamRequest r) ⟨p, w⟩ = .next ⟨requestPresented p r, w⟩ := rfl

/-- Settles O4: the port is open and the tag in use, so the request is a protocol error and nothing else. -/
theorem tagInUseIsDiscarded : Obligations.TagInUseIsDiscarded := by
  intro p w r hroom hdrain ht
  rw [exec_upstreamRequest, requestPresented_tagInUse ((portOpen_iff p).mpr ⟨hroom, hdrain⟩) ht]
  rfl

/-- Settles O5: the port is open and the tag free, so the two conditions of R148 decide. -/
theorem malformedRequestIsRefused : Obligations.MalformedRequestIsRefused := by
  intro p w r hroom hdrain ht
  have hopen : portOpen p = true := (portOpen_iff p).mpr ⟨hroom, hdrain⟩
  refine ⟨fun hbad => ?_, fun hgood => ?_⟩
  · rw [exec_upstreamRequest, requestPresented_malformed hopen ht hbad]
    rfl
  · rw [exec_upstreamRequest, requestPresented_accepted hopen ht hgood]
    rfl

/-! ### Requests that keep others back (R153) -/

/-- Two downstream requests share a line as two upstream requests of the same bytes do (R43, R153). -/
theorem downReqs_sharesLine_iff (o r : DownReq) : sharesLine o.addr.toNat o.len r.addr.toNat r.len = true ↔
    ∃ n, o.addr.toNat / 64 ≤ n ∧ n ≤ (o.addr.toNat + (o.len - 1)) / 64 ∧
      r.addr.toNat / 64 ≤ n ∧ n ≤ (r.addr.toNat + (r.len - 1)) / 64 :=
  requestsShare_iff { tag := 0, kind := o.kind, addr := o.addr, len := o.len, enables := o.enables, data := o.data }
    { tag := 0, kind := r.kind, addr := r.addr, len := r.len, enables := r.enables, data := r.data }

/-- A pass-through read in the journal-area window (R153). -/
theorem isJournalRead_iff (g : Geometry) (r : DownReq) : isJournalRead g r = true ↔
    r.purpose.requester = .pt ∧ r.kind = .read ∧ inWindow g r.addr.toNat = true := by
  simp only [isJournalRead, Bool.and_eq_true, beq_iff_eq, and_assoc]

/-- A request keeps back one it shares a line with, the excepted pair apart (R153). -/
theorem holdsBack_iff (g : Geometry) (o r : DownReq) : holdsBack g o r = true ↔
    (∃ n, o.addr.toNat / 64 ≤ n ∧ n ≤ (o.addr.toNat + (o.len - 1)) / 64 ∧
      r.addr.toNat / 64 ≤ n ∧ n ≤ (r.addr.toNat + (r.len - 1)) / 64) ∧
    ¬ (o.purpose.requester = .pt ∧ o.kind = .read ∧ inWindow g o.addr.toNat = true ∧ r.purpose.requester = .rw) ∧
    ¬ (r.purpose.requester = .pt ∧ r.kind = .read ∧ inWindow g r.addr.toNat = true ∧ o.purpose.requester = .rw) := by
  rw [holdsBack, Bool.and_eq_true, downReqs_sharesLine_iff, Bool.not_eq_true', Bool.or_eq_false_iff,
    ← Bool.not_eq_true, ← Bool.not_eq_true, Bool.and_eq_true, Bool.and_eq_true, isJournalRead_iff, isJournalRead_iff,
    beq_iff_eq, beq_iff_eq, and_comm (a := o.purpose.requester = .rw)]
  simp only [and_assoc]

/-! ### The head of a requester (R153) -/

/-- The head of a requester is its oldest waiting request. -/
theorem headOf_eq_some_iff (waiting : List DownReq) (q : Requester) (k : Nat) (r : DownReq) :
    headOf waiting q = some (k, r) ↔
      waiting[k]? = some r ∧ r.purpose.requester = q ∧
        ∀ j o, j < k → waiting[j]? = some o → o.purpose.requester ≠ q := by
  have hplace : headOf waiting q = some (k, r) ↔
      waiting.findIdx? (fun o => o.purpose.requester == q) = some k ∧ waiting[k]? = some r := by
    unfold headOf
    cases waiting.findIdx? fun o => o.purpose.requester == q with
    | none => simp
    | some i =>
      simp only [Option.map_eq_some_iff, Prod.mk.injEq, Option.some.injEq]
      constructor
      · rintro ⟨_, hr, rfl, rfl⟩
        exact ⟨rfl, hr⟩
      · rintro ⟨rfl, hr⟩
        exact ⟨r, hr, rfl, rfl⟩
  rw [hplace, List.findIdx?_eq_some_iff_getElem]
  simp only [List.getElem?_eq_some_iff, beq_iff_eq]
  constructor
  · rintro ⟨⟨hk, hq, hold⟩, -, rfl⟩
    exact ⟨⟨hk, rfl⟩, hq, fun j o hj ⟨_, ho⟩ => ho ▸ hold j hj⟩
  · rintro ⟨⟨hk, rfl⟩, hq, hold⟩
    exact ⟨⟨hk, hq, fun j hj => hold j _ hj ⟨hj.trans hk, rfl⟩⟩, hk, rfl⟩

/-- Nothing among the first `k` of a list has a property when no place below `k` holds an item that has it. -/
theorem any_take_eq_false_iff {α : Type} (l : List α) (k : Nat) (f : α → Bool) :
    (l.take k).any f = false ↔ ∀ j o, j < k → l[j]? = some o → f o = false := by
  simp only [List.any_eq_false, List.mem_take_iff_getElem, Bool.not_eq_true]
  constructor
  · intro h j o hj ho
    obtain ⟨hl, rfl⟩ := List.getElem?_eq_some_iff.mp ho
    exact h _ ⟨j, lt_min hj hl, rfl⟩
  · rintro h o ⟨j, hj, rfl⟩
    exact h j _ (lt_min_iff.mp hj).1 (List.getElem?_eq_getElem _)

/-- The head is eligible when nothing handed over before it keeps it back. -/
theorem eligibleHead_eq_some_iff (g : Geometry) (waiting : List DownReq) (q : Requester) (k : Nat) (r : DownReq) :
    eligibleHead g waiting q = some (k, r) ↔
      waiting[k]? = some r ∧ r.purpose.requester = q ∧
        ∀ j o, j < k → waiting[j]? = some o → o.purpose.requester ≠ q ∧ holdsBack g o r = false := by
  have hhead : eligibleHead g waiting q = some (k, r) ↔
      headOf waiting q = some (k, r) ∧ (waiting.take k).any (fun o => holdsBack g o r) = false := by
    unfold eligibleHead
    cases headOf waiting q with
    | none => simp
    | some x =>
      obtain ⟨i, o⟩ := x
      simp only [Option.ite_none_left_eq_some, Option.some.injEq, Prod.mk.injEq, Bool.not_eq_true]
      constructor
      · rintro ⟨hback, rfl, rfl⟩
        exact ⟨⟨rfl, rfl⟩, hback⟩
      · rintro ⟨⟨rfl, rfl⟩, hback⟩
        exact ⟨hback, rfl, rfl⟩
  rw [hhead, headOf_eq_some_iff, any_take_eq_false_iff]
  constructor
  · rintro ⟨⟨hk, hq, hold⟩, hback⟩
    exact ⟨hk, hq, fun j o hj ho => ⟨hold j o hj ho, hback j o hj ho⟩⟩
  · rintro ⟨hk, hq, hold⟩
    exact ⟨⟨hk, hq, fun j o hj ho => (hold j o hj ho).1⟩, fun j o hj ho => (hold j o hj ho).2⟩

/-- The engine group's head is the first there is in the order RW, CR, RS (R155). -/
theorem engineHead_eq (g : Geometry) (waiting : List DownReq) : engineHead g waiting =
    match eligibleHead g waiting .rw, eligibleHead g waiting .cr with
    | some x, _ => some x
    | none, some x => some x
    | none, none => eligibleHead g waiting .rs := by
  unfold engineHead
  cases eligibleHead g waiting .rw with
  | some x => rfl
  | none => cases eligibleHead g waiting .cr <;> rfl

/-- It is the eligible head of one of the group's requesters. -/
theorem eligible_of_engineHead {g : Geometry} {waiting : List DownReq} {x : Nat × DownReq}
    (h : engineHead g waiting = some x) : ∃ q, eligibleHead g waiting q = some x := by
  rw [engineHead, Option.or_eq_some_iff, Option.or_eq_some_iff] at h
  obtain hrw | ⟨-, hcr | ⟨-, hrs⟩⟩ := h
  · exact ⟨.rw, hrw⟩
  · exact ⟨.cr, hcr⟩
  · exact ⟨.rs, hrs⟩

/-! ### The side of a turn (R155, R156, R168) -/

section
variable {p : Part} {x y : Nat × DownReq}

/-- With both sides eligible and the mode FAIR, the turn goes to the side that did not take the last one. -/
theorem turnChoice_fair (hx : eligibleHead p.classifier.geometry p.arbiter.waiting .pt = some x)
    (hy : engineHead p.classifier.geometry p.arbiter.waiting = some y) (hf : p.power.frozen = false)
    (hm : p.arbiter.mode = .fair) :
    turnChoice p = if p.arbiter.lastTurn = .pt then some (.engine, y) else some (.pt, x) := by
  have hmode : modeInForce p = .fair := by rw [modeInForce, hf, hm]; rfl
  simp only [turnChoice, hx, hy, hmode]
  cases p.arbiter.lastTurn <;> rfl

/-- The engine group takes the turn unopposed, while the part is frozen, and in the mode ENGINE_FIRST. -/
theorem turnChoice_engine (hy : engineHead p.classifier.geometry p.arbiter.waiting = some y)
    (h : eligibleHead p.classifier.geometry p.arbiter.waiting .pt = none ∨ p.power.frozen = true ∨
      p.arbiter.mode = .engineFirst) : turnChoice p = some (.engine, y) := by
  cases hx : eligibleHead p.classifier.geometry p.arbiter.waiting .pt with
  | none => simp only [turnChoice, hx, hy]
  | some x =>
    have hmode : modeInForce p = .engineFirst := by
      rcases h with h | hf | hm
      · rw [hx] at h; cases h
      · exact if_pos hf
      · rw [modeInForce, hm, ite_self]
    simp only [turnChoice, hx, hy, hmode]

/-- The pass-through side takes the turn when the engine group has no eligible head. -/
theorem turnChoice_pt (hx : eligibleHead p.classifier.geometry p.arbiter.waiting .pt = some x)
    (hy : engineHead p.classifier.geometry p.arbiter.waiting = none) : turnChoice p = some (.pt, x) := by
  simp only [turnChoice, hx, hy]

/-- Whatever the side, a turn issues the eligible head of a requester. -/
theorem eligible_of_turnChoice {side : Side} (h : turnChoice p = some (side, x)) :
    ∃ q, eligibleHead p.classifier.geometry p.arbiter.waiting q = some x := by
  cases hx : eligibleHead p.classifier.geometry p.arbiter.waiting .pt with
  | none =>
    cases hy : engineHead p.classifier.geometry p.arbiter.waiting with
    | none => simp [turnChoice, hx, hy] at h
    | some y =>
      rw [turnChoice_engine hy (.inl hx)] at h
      cases h
      exact eligible_of_engineHead hy
  | some z =>
    cases hy : engineHead p.classifier.geometry p.arbiter.waiting with
    | none =>
      rw [turnChoice_pt hx hy] at h
      cases h
      exact ⟨.pt, hx⟩
    | some y =>
      simp only [turnChoice, hx, hy] at h
      split at h <;> cases h
      · exact eligible_of_engineHead hy
      · exact eligible_of_engineHead hy
      · exact ⟨.pt, hx⟩

end

/-! ### The turn (R152, R155) -/

/-- The part after a turn: the request of a place is issued with the tag, and the side is the last that took a turn. -/
def turnGiven (p : Part) (t : DTag) (side : Side) (x : Nat × DownReq) : Part :=
  { p with arbiter := { p.arbiter with waiting := p.arbiter.waiting.eraseIdx x.1,
                                       issued := setAt p.arbiter.issued t (some x.2), lastTurn := side } }

/-- ARBITER_TURN issues what the turn chooses with the free tag. -/
theorem exec_arbiterTurn {p : Part} {t : DTag} {side : Side} {x : Nat × DownReq} (w : List Instr)
    (ht : getAt p.arbiter.issued t = none) (h : turnChoice p = some (side, x)) :
    exec (.arbiterTurn t) ⟨p, w⟩ = .next ⟨turnGiven p t side x, w⟩ := by
  have hturn : turnTaken p t = turnGiven p t side x := by
    simp only [turnTaken, issuedAt, ht, h]
    rfl
  rw [← hturn]
  rfl

/-! ### Transfers of the part's own (R99, R120, R154) -/

/-- A read of the part's own is presented as one request, or as two where it crosses a block boundary. -/
theorem readPieces_eq (u : Nat → Purpose) (a len : Nat) : readPieces u a len =
    if a / 256 = (a + (len - 1)) / 256 then [engineRead (u 0) a len]
    else [engineRead (u 0) a (256 - a % 256), engineRead (u 1) (a + (256 - a % 256)) (len - (256 - a % 256))] := by
  unfold readPieces blockPieces blockNumber
  split <;> rfl

/-- A write of the part's own has every byte enabled. -/
theorem engineWrite_eq (u : Purpose) (a : Nat) (bytes : List Byte) : engineWrite u a bytes =
    { purpose := u, kind := .write, addr := BitVec.ofNat 40 a, len := bytes.length,
      enables := bytes.map fun _ => true, data := bytes } := by
  rw [engineWrite, List.map_const']

/-- Settles O14: the side by the three cases of the choice, the head by its own characterisation. -/
theorem arbiterTurnIssuesHead : Obligations.ArbiterTurnIssuesHead := by
  refine ⟨fun p w t ht => ⟨fun x y hx hy hf hm => ?_, fun y hy h => ?_, fun x hx hy => ?_⟩, fun p side k r h => ?_,
    engineHead_eq, eligibleHead_eq_some_iff, holdsBack_iff, readPieces_eq, fun _ _ _ => rfl, engineWrite_eq,
    fun u => by cases u <;> rfl⟩
  · have hside := turnChoice_fair hx hy hf hm
    split
    next hlast => exact exec_arbiterTurn w ht (hside.trans (if_pos hlast))
    next hlast => exact exec_arbiterTurn w ht (hside.trans (if_neg hlast))
  · exact exec_arbiterTurn w ht (turnChoice_engine hy h)
  · exact exec_arbiterTurn w ht (turnChoice_pt hx hy)
  · obtain ⟨q, hq⟩ := eligible_of_turnChoice h
    obtain ⟨hk, rfl, hold⟩ := (eligibleHead_eq_some_iff ..).mp hq
    exact ⟨hk, hold⟩

/-! ### Answers for a tag that holds no request (R152, log 2) -/

section
variable {p : Part} {t : DTag} (h : getAt p.arbiter.issued t = none)
include h

/-- An answer DONE is to no pass-through request (R157). -/
theorem ptDone_free (data : List Byte) : ptDone p t data = p := by
  simp only [ptDone, issuedAt, h]

/-- An answer FAILED is to none either, so no DATA_FAULT is raised (R158). -/
theorem ptFailed_free : ptFailed p t = p := by
  simp only [ptFailed, issuedAt, h]

/-- No copy slot's read is answered (R62, R65). -/
theorem copySlotOf_free : copySlotOf p t = none := by
  simp only [copySlotOf, issuedAt, h]

/-- No record or header write is answered (R100, R101). -/
theorem recordWriteOf_free : recordWriteOf p t = none := by
  simp only [recordWriteOf, issuedAt, h]

/-- No piece of a rollback's transfer is answered (R119, R120). -/
theorem walkPieceOf_free : walkPieceOf p t = none := by
  simp only [walkPieceOf, issuedAt, h]

/-- No piece of recovery's transfer is answered (R133, R136). -/
theorem recoveryPieceOf_free : recoveryPieceOf p t = none := by
  simp only [recoveryPieceOf, issuedAt, h]

/-- No write of recovery is answered, whichever row it is. -/
theorem recoveryWriteRow_free (pick : RecoveryStage → Option (Part → Part)) : recoveryWriteRow p t pick = p := by
  simp only [recoveryWriteRow, recoveryPieceOf_free h]

end

/-! ### Rows whose event cannot happen (R145, log 2) -/

/-- The classifier has nothing to take from an empty queue or behind a head that waits, classified already (R5). -/
theorem classifyHead_idle {p : Part}
    (h : p.port.intake = [] ∨ ∃ r k rest, p.port.intake = { req := r, cls := some k } :: rest) : classifyHead p = p := by
  rcases h with h | ⟨r, k, rest, h⟩ <;> simp only [classifyHead, h]

/-- A tag in use takes no turn (R152). -/
theorem turnTaken_tagInUse {p : Part} {t : DTag} (h : getAt p.arbiter.issued t ≠ none) : turnTaken p t = p := by
  obtain ⟨r, hr⟩ := Option.ne_none_iff_exists'.mp h
  simp only [turnTaken, issuedAt, hr]

/-- An entry without a deadline does not expire (R57). -/
theorem holdExpiryRow_noDeadline {p : Part} {tag : Tag} (h : ∀ e, holdEntry p tag = some e → e.deadline = none) :
    holdExpiryRow p tag = p := by
  cases he : holdEntry p tag with
  | none => simp only [holdExpiryRow, he]
  | some e =>
    have hdue : dueDeadline e = none := by rw [dueDeadline, h e he, ite_self]
    simp only [holdExpiryRow, he, hdue]

/-- A commit without a deadline is not given up (R28, R33). -/
theorem commitExpiryRow_noDeadline {p : Part} {c : Chan} (h : ∀ m, (chan p c).marker = some m → m.deadline = none) :
    commitExpiryRow p c = p := by
  have hdue : commitDeadline p c = none := by
    unfold commitDeadline
    cases hm : (chan p c).marker with
    | none => rfl
    | some m => simp only [h m hm, ite_self]
  simp only [commitExpiryRow, hdue]

/-- The index is that of a _LO register when it is listed (R173). -/
theorem isPairLo_iff (i : BitVec 7) : isPairLo i = true ↔ i ∈ pairLoIndexes := List.contains_iff_mem

/-- Only the register that a read frame comes to next is sampled (R173, log 5). -/
theorem pairLoSampled_unsampled {p : Part} {i : BitVec 7}
    (h : ∀ f, p.link.frame = .frame f → f.isWrite = true ∨ f.index + 1 ≠ i) : pairLoSampled p i = p := by
  cases hl : p.link.frame with
  | idle => simp only [pairLoSampled, hl]
  | ignoring => simp only [pairLoSampled, hl]
  | frame f =>
    have hnot : ¬ (!f.isWrite && f.index + 1 == i) = true := by
      rw [Bool.and_eq_true, Bool.not_eq_true', beq_iff_eq]
      rintro ⟨hread, hnext⟩
      rcases h f hl with hw | hne
      · exact ne_true_of_eq_false hread hw
      · exact hne hnext
    simp only [pairLoSampled, hl, if_neg hnot]

/-- PAIR_LO_READ of no low half, or of one that is not the next of a read frame, samples nothing. -/
theorem exec_pairLoRead_unsampled {p : Part} {i : BitVec 7} (w : List Instr)
    (h : i ∉ pairLoIndexes ∨ ∀ f, p.link.frame = .frame f → f.isWrite = true ∨ f.index + 1 ≠ i) :
    exec (.pairLoRead i) ⟨p, w⟩ = .next ⟨p, w⟩ := by
  show Host.Outcome.next (State.mk (if isPairLo i then pairLoSampled p i else p) w) = _
  rcases h with hi | hf
  · rw [if_neg (mt (isPairLo_iff i).mp hi)]
  · rw [pairLoSampled_unsampled hf, ite_self]

/-- With no drain there is none to end (R181). -/
theorem exec_drainEnd_idle {p : Part} (w : List Instr) (h : p.command.busy ≠ .softReset) :
    exec .drainEnd ⟨p, w⟩ = .next ⟨p, w⟩ := by
  have hdone : drainDone p = false := by
    simp only [drainDone, Bool.eq_false_iff.mpr (mt (draining_iff p).mp h), Bool.false_and]
  show Host.Outcome.next (State.mk (if drainDone p then drainEnds p else p) w) = _
  rw [hdone]
  rfl

/-- A row that leaves the part as it is answers the state it met. -/
theorem next_of_unchanged {p q : Part} (w : List Instr) (h : q = p) :
    (Host.Outcome.next ⟨q, w⟩ : Host.Outcome State Fault Refusal) = .next ⟨p, w⟩ := by
  rw [h]

/-- Settles O35: each row's effect is the identity where its event cannot happen. -/
theorem rowWithoutItsEventChangesNothing : Obligations.RowWithoutItsEventChangesNothing := by
  intro p w t
  refine ⟨rfl, fun r h => next_of_unchanged w (requestPresented_closed h), fun h => ?_,
    fun h => next_of_unchanged w (classifyHead_idle h), fun h => next_of_unchanged w (turnTaken_tagInUse h),
    fun tag h => next_of_unchanged w (holdExpiryRow_noDeadline h), fun c h => next_of_unchanged w (commitExpiryRow_noDeadline h),
    fun i h => exec_pairLoRead_unsampled w h, exec_drainEnd_idle w⟩
  have hcopy := copySlotOf_free h
  have hrecord := recordWriteOf_free h
  have hwalk := walkPieceOf_free h
  have hrecovery := recoveryPieceOf_free h
  refine ⟨fun d => next_of_unchanged w (ptDone_free h d), next_of_unchanged w (ptFailed_free h),
    fun d => next_of_unchanged w ?_, next_of_unchanged w ?_, next_of_unchanged w ?_, next_of_unchanged w ?_,
    fun a => next_of_unchanged w ?_, fun a => next_of_unchanged w ?_, fun a => next_of_unchanged w ?_,
    fun a => next_of_unchanged w ?_, fun a => next_of_unchanged w ?_,
    fun a => next_of_unchanged w (recoveryWriteRow_free h _), fun a => next_of_unchanged w (recoveryWriteRow_free h _),
    fun a => next_of_unchanged w (recoveryWriteRow_free h _)⟩
  · simp only [hcopy]
  · simp only [hcopy]
  · simp only [hrecord]
  · simp only [hrecord]
  · simp only [walkHeaderRow, hwalk]
  · simp only [walkPayloadRow, hwalk]
  · simp only [walkRestoreRow, hwalk]
  · simp only [scanRow, hrecovery]
  · simp only [backReadRow, hrecovery]

end Sys2Proof.Proofs

/-! The end of a soft reset's drain: when it comes, the state it leaves every block in, and the freeze taken on a part that
holds nothing (R161, R163, R181, R182). -/

namespace Sys2Proof.Proofs

open Sys2Proof.Machine Sys2Proof.Laws

/-! ### A part that holds nothing -/

/-- Nothing is held, in progress or waiting to be placed: a freeze finds nothing to answer, and no block has an event due by
itself while the writer is out of service. -/
structure Emptied (p : Part) : Prop where
  queue : p.hold.queue = []
  lineTest : p.hold.lineTest = false
  headRetry : p.hold.headRetry = false
  waiting : p.writer.waiting = []
  marker : ∀ c, (chan p c).marker = none
  rollback : p.restore.rollback = none
  abortQueue : p.restore.abortQueue = []

section
variable {p : Part}

/-- With the writer out of service a part that holds nothing is at rest (log 9). -/
theorem Emptied.atRest (h : Emptied p) (hr : p.writer.state ≠ .running) (hs : p.writer.state ≠ .suspended) : p.AtRest := by
  refine (atRest_iff p).mpr ⟨?_, ?_, ?_, (lineTestStep_eq_none_iff p).mpr h.lineTest, ?_,
    (abortStep_eq_none_iff p).mpr (.inr (.inl h.abortQueue)), (resumeStep_eq_none_iff p).mpr (.inl hs), ?_,
    (heldStep_eq_none_iff p).mpr (.inl hr), (headRetryStep_eq_none_iff p).mpr h.headRetry,
    (assignSlot_eq_none_iff p).mpr (.inl hr)⟩
  · rw [forwardStep, h.queue]
    rfl
  · rw [commitEndStep, Option.map_eq_none_iff, firstDurable_eq_none]
    intro c n
    simp only [commitDurable, h.marker c, ne_eq, reduceCtorEq, not_false_eq_true]
  · simp only [rollbackStep, h.rollback]
  · rw [commitAskStep, Option.map_eq_none_iff, List.find?_eq_none]
    intro c _
    simp only [commitReady, commitUnplaced, h.marker c, Bool.and_false, Bool.false_and, Bool.false_eq_true, not_false_eq_true]
  · rw [waitingStep_eq_none_iff, h.waiting]
    intro r rest hcons
    exact absurd hcons.symm (List.cons_ne_nil r rest)

/-- What the monitor and the writer do at a freeze leaves a part that holds nothing so. -/
theorem Emptied.freezing (h : Emptied p) : Emptied (freezing p) :=
  ⟨h.queue, h.lineTest, h.headRetry, rfl, h.marker, h.rollback, h.abortQueue⟩

/-- No marker is answered where none is in progress (R126, R127, R167). -/
theorem Emptied.unplaced (h : Emptied p) : unplacedCommits p ++ unplacedAborts p = [] := by
  have hcommits : unplacedCommits p = [] := by
    refine List.filter_eq_nil_iff.mpr fun c _ => ?_
    simp only [commitUnplaced, h.marker c, Bool.false_eq_true, not_false_eq_true]
  have haborts : unplacedAborts p = [] := by
    simp only [unplacedAborts, rollbackUnplaced, h.rollback, h.abortQueue, List.append_nil]
  rw [hcommits, haborts, List.append_nil]

/-- A freeze that meets nothing held or in progress is the monitor's and the writer's part of it alone (R161, R164). -/
theorem Emptied.freezeBlocks (h : Emptied p) : freezeBlocks p = Laws.freezing p := by
  have hqueue := h.freezing.queue
  unfold Machine.freezeBlocks
  dsimp only
  rw [answer_unplaced rfl, show freezeWriter _ = Laws.freezing p from rfl, h.freezing.unplaced]
  show (Laws.freezing p).hold.queue.foldl freezeEntry _ = _
  rw [hqueue]
  rfl

/-- What the monitor and the writer do at a freeze, as a record: the indication and PFAIL_FROZEN are set, the writer is FROZEN
or stays HALTED, and its waiting requests are withdrawn (R109, R161). -/
theorem freezing_eq (p : Part) : freezing p = { p with
    writer := { p.writer with state := if p.writer.state = .halted then .halted else .frozen, waiting := [] },
    events := { p.events with flags := p.events.flags ||| eventMask .pfailFrozen },
    power := { p.power with frozen := true } } := by
  simp only [freezing, freezeWriter, beq_iff_eq]
  rfl

/-- Nothing follows such a freeze of itself (R161, log 9). -/
theorem Emptied.takeFreeze (h : Emptied p) (hf : p.power.frozen = false) : takeFreeze p = Laws.freezing p := by
  have hrest : (Laws.freezing p).AtRest := by
    refine h.freezing.atRest ?_ ?_ <;> rw [freezing_eq] <;> dsimp only <;> split <;> decide
  rw [takeFreeze_first hf, h.freezeBlocks, settle_of_atRest hrest]

/-! ### The end of the drain (R181, R182) -/

/-- A placed record waits to be presented unless it has been, or a header of its segment was answered FAILED (R181). -/
theorem toPresent_eq_false_iff (l : List JournalWrite) (j : JournalWrite) : toPresent l j = false ↔
    j.presented = true ∨ ∃ x ∈ l, x.isHeader = true ∧ x.seg = j.seg ∧ x.failed = true := by
  rw [toPresent, Bool.and_eq_false_iff, Bool.not_eq_false', Bool.not_eq_false', List.any_eq_true]
  simp only [Bool.and_eq_true, beq_iff_eq, and_assoc]

/-- The conditions that end the drain, each as the rule names it (R181). -/
theorem drainDone_iff (p : Part) : drainDone p = true ↔ p.command.busy = .softReset ∧
    (∀ t, getAt p.port.tags t = false) ∧ p.arbiter.waiting = [] ∧ (∀ t, getAt p.arbiter.issued t = none) ∧
    ∀ j ∈ p.writer.journal, j.presented = true ∨
      ∃ x ∈ p.writer.journal, x.isHeader = true ∧ x.seg = j.seg ∧ x.failed = true := by
  have htags : (!p.port.tags.any id) = true ↔ ∀ t, getAt p.port.tags t = false := by
    rw [Bool.not_eq_true', Vector.any_eq_false]
    simp only [id_eq, Bool.not_eq_true, getAt, Fin.forall_iff]
  have hissued : p.arbiter.issued.all Option.isNone = true ↔ ∀ t, getAt p.arbiter.issued t = none := by
    simp [getAt, Fin.forall_iff]
  have hjournal : (!p.writer.journal.any (toPresent p.writer.journal)) = true ↔
      ∀ j ∈ p.writer.journal, toPresent p.writer.journal j = false := by
    simp
  simp only [drainDone, Bool.and_eq_true, draining_iff, htags, List.isEmpty_iff, hissued, hjournal, toPresent_eq_false_iff,
    and_assoc]

/-- DRAIN_END with the conditions met ends the drain (R181). -/
theorem exec_drainEnd_done (w : List Instr) (h : drainDone p = true) :
    exec .drainEnd ⟨p, w⟩ = .next ⟨drainEnds p, w⟩ := by
  show Host.Outcome.next (State.mk (if drainDone p then drainEnds p else p) w) = _
  rw [if_pos h]

/-- A soft reset leaves each channel its enable and its marker code (R19). -/
theorem chan_drainedBlocks (p : Part) (c : Chan) : chan (drainedBlocks p) c = (chan p c).afterSoftReset := by
  simp only [chan, drainedBlocks, getAt, Vector.getElem_map]

/-- After the drain nothing is held or in progress (R182). -/
theorem drainedBlocks_emptied (p : Part) : Emptied (drainedBlocks p) :=
  ⟨rfl, rfl, rfl, rfl, fun c => by rw [chan_drainedBlocks]; rfl, rfl, rfl⟩

/-- With PFAIL negated the drain's end is the reset of the blocks (R163). -/
theorem drainEnds_negated (h : p.power.pfail = false) : drainEnds p = drainedBlocks p :=
  if_neg (by rw [show (drainedBlocks p).power.pfail = p.power.pfail from rfl, h]; decide)

/-- With PFAIL asserted the freeze is taken on the blocks just reset, which hold nothing (R163). -/
theorem drainEnds_asserted (h : p.power.pfail = true) : drainEnds p = freezing (drainedBlocks p) :=
  (if_pos h).trans ((drainedBlocks_emptied p).takeFreeze rfl)

end

/-- Settles O44: the drain's conditions are met, and the blocks' reset is followed by the sample of PFAIL. -/
theorem drainEndResetsBlocks : Obligations.DrainEndResetsBlocks := by
  intro p q w hbusy htags hwaiting hissued hjournal hq
  have hdone := (drainDone_iff p).mpr ⟨hbusy, htags, hwaiting, hissued, hjournal⟩
  have hblocks : { q with power := { frozen := false, pfail := p.power.pfail } } = drainedBlocks p := by
    rw [hq]
    rfl
  rw [exec_drainEnd_done w hdone]
  refine ⟨fun hp => ?_, fun hp => ?_⟩
  · rw [drainEnds_negated hp, ← hblocks, hp, hq]
    rfl
  · have hstate : q.writer.state = .stopped := by rw [hq]; rfl
    have hwaits : q.writer.waiting = [] := by rw [hq]; rfl
    have hflags : q.events.flags = 0 := by rw [hq]
    rw [drainEnds_asserted hp, ← hblocks, hp, freezing_eq]
    simp only [hstate, hwaits, hflags, reduceCtorEq, if_false]
    rfl

end Sys2Proof.Proofs

/-! The management link: the register group that each row stands for, what a group does in a write frame, in a read frame and
with no frame open, how a frame begins and ends, and the two halves of a pair (R171 to R177). -/

namespace Sys2Proof.Proofs

open Sys2Proof.Machine Sys2Proof.Laws

/-! ### A register-group row is a write to its own index (R171, R175, log 4) -/

/-- The index and the value of the register group that a row stands for; none when it stands for no group. -/
def groupOf : Instr → Option (BitVec 7 × Word)
  | .recover => some (0x03, commandValue 1 0)
  | .format => some (0x03, commandValue 2 0)
  | .start => some (0x03, commandValue 3 0)
  | .stop => some (0x03, commandValue 4 0)
  | .returnSegment n => some (0x03, commandValue 5 n.val)
  | .softReset => some (0x03, commandValue 6 0)
  | .unknownCommand code => some (0x03, commandValue code.toNat 0)
  | .regionEntryWrite r v => some (regionRegIndex r, v)
  | .configGroupWrite r v => some (configRegIndex r, v)
  | .markerCodeWrite c v => some (markerCodeIndex c, v)
  | .eventClear v => some (0x72, v)
  | .eventSet v => some (0x73, v)
  | .eventEnable v => some (0x71, v)
  | .registerWrite i v => some (i, v)
  | _ => none

/-- A row whose effect is that of a write to its own index is that write, whatever the link. -/
theorem changed_groupTaken_eq_registerWrite {p : Part} {i : BitVec 7} {v : Word} {act : Part → Part} (w : List Instr)
    (ha : act p = writeRegister p i v) :
    changed ⟨p, w⟩ (fun p => groupTaken p i v act) = exec (.registerWrite i v) ⟨p, w⟩ := by
  show Host.Outcome.next (State.mk (groupTaken p i v act) w) =
    .next ⟨groupTaken p i v (fun q => writeRegister q i v), w⟩
  unfold groupTaken
  rw [ha]

/-- Every row of a register group is the write of its value to its own index. -/
theorem exec_eq_registerWrite {c : Instr} {i : BitVec 7} {u : Word} (h : groupOf c = some (i, u)) (p : Part) (w : List Instr) :
    exec c ⟨p, w⟩ = exec (.registerWrite i u) ⟨p, w⟩ := by
  obtain ⟨hrecover, hformat, hstart, hstop, -, hsoft⟩ := commandWritten_commandValue p 0
  cases c with
  | recover =>
    cases h
    exact changed_groupTaken_eq_registerWrite (act := fun q => unlessBusy q .recover judgeRecover) w hrecover.symm
  | format =>
    cases h
    exact changed_groupTaken_eq_registerWrite (act := fun q => unlessBusy q .format judgeFormat) w hformat.symm
  | start =>
    cases h
    exact changed_groupTaken_eq_registerWrite (act := fun q => unlessBusy q .start judgeStart) w hstart.symm
  | stop =>
    cases h
    exact changed_groupTaken_eq_registerWrite (act := fun q => unlessBusy q .stop judgeStop) w hstop.symm
  | returnSegment n =>
    obtain ⟨-, -, -, -, hreturn, -⟩ := commandWritten_commandValue p n
    cases h
    exact changed_groupTaken_eq_registerWrite
      (act := fun q => unlessBusy q .returnSegment fun x => judgeReturn x n.val) w hreturn.symm
  | softReset =>
    cases h
    exact changed_groupTaken_eq_registerWrite (act := softResetTaken) w hsoft.symm
  | unknownCommand code =>
    cases h
    exact changed_groupTaken_eq_registerWrite (act := fun q => commandWritten q (commandValue code.toNat 0)) w rfl
  | regionEntryWrite r =>
    cases h
    exact changed_groupTaken_eq_registerWrite (act := fun q => writeRegion q r u) w (writeRegister_region p r u).symm
  | configGroupWrite r =>
    cases h
    exact changed_groupTaken_eq_registerWrite (act := fun q => writeConfigGroup q r u) w (writeRegister_config p r u).symm
  | markerCodeWrite c =>
    cases h
    exact changed_groupTaken_eq_registerWrite (act := fun q => writeMarkerCode q c u) w (writeRegister_markerCode p c u).symm
  | eventClear =>
    cases h
    exact changed_groupTaken_eq_registerWrite (act := fun q => clearEvents q u) w rfl
  | eventSet =>
    cases h
    exact changed_groupTaken_eq_registerWrite (act := fun q => setEvents q u) w rfl
  | eventEnable =>
    cases h
    exact changed_groupTaken_eq_registerWrite (act := fun q => enableEvents q u) w rfl
  | registerWrite =>
    cases h
    rfl
  | _ => cases h

/-! ### A group by the frame that carries it (R171, R173, R174) -/

section
variable {p : Part} {f : Frame} (i : BitVec 7) (v : Word) (w : List Instr)

/-- With chip-select high, or on a link that ignores the clock, no group is carried (R171, R174). -/
theorem exec_registerWrite_unframed (h : p.link.frame = .idle ∨ p.link.frame = .ignoring) :
    exec (.registerWrite i v) ⟨p, w⟩ = .next ⟨p, w⟩ := by
  show Host.Outcome.next (State.mk (groupTaken p i v _) w) = _
  rw [groupTaken_unframed h]

/-- In a read frame a group writes nothing, and the register after the frame's is sampled (R173). -/
theorem exec_registerWrite_read (h : p.link.frame = .frame f) (hf : f.isWrite = false) :
    exec (.registerWrite i v) ⟨p, w⟩ = .next ⟨sampledAs p (f.index + 1) (nextSample p f), w⟩ := by
  show Host.Outcome.next (State.mk (groupTaken p i v _) w) = _
  rw [groupTaken_read h hf]

/-- In a write frame a group goes to the frame's index, whatever index its row names (R171). -/
theorem exec_registerWrite_frameIndex (h : p.link.frame = .frame f) (hf : f.isWrite = true) :
    exec (.registerWrite i v) ⟨p, w⟩ = exec (.registerWrite f.index v) ⟨p, w⟩ := by
  show Host.Outcome.next (State.mk (groupTaken p i v _) w) = .next ⟨groupTaken p f.index v _, w⟩
  rw [groupTaken_write h hf rfl, groupTaken_write h hf rfl]

end

/-- In a write frame a row of a group is a write of its value to the frame's index, whatever register it names (R171,
log 4). -/
theorem exec_group_frameIndex {c : Instr} {i : BitVec 7} {u : Word} {p : Part} {f : Frame} (w : List Instr)
    (hc : groupOf c = some (i, u)) (h : p.link.frame = .frame f) (hf : f.isWrite = true) :
    exec c ⟨p, w⟩ = exec (.registerWrite f.index u) ⟨p, w⟩ :=
  (exec_eq_registerWrite hc p w).trans (exec_registerWrite_frameIndex i u w h hf)

/-- A sample as one record: the value on the data output, and the upper part captured with a _LO register (R173). -/
theorem sampledAs_eq (p : Part) (i : BitVec 7) (x : Word) : sampledAs p i x = { p with link := { p.link with
    frame := .frame { isWrite := false, index := i,
                      capture := if i ∈ pairLoIndexes then some (readRegister p (i + 1)) else none },
    sample := x } } := by
  simp only [sampledAs, isPairLo_iff]

/-- Settles O52: every row of a group is a write to its own index, and such a write leaves the closed link as it is and
samples the next register in a read frame. -/
theorem noWriteOutsideWriteFrames : Obligations.NoWriteOutsideWriteFrames := by
  intro p q w v hq
  have write : ∀ i u, exec (.registerWrite i u) ⟨p, w⟩ = .next ⟨q, w⟩ := by
    intro i u
    rcases hq with ⟨hframe, rfl⟩ | ⟨f, hframe, hread, rfl⟩
    · exact exec_registerWrite_unframed i u w hframe
    · rw [exec_registerWrite_read i u w hframe hread, sampledAs_eq, nextSample, BitVec.add_assoc]
      rfl
  have group : ∀ {c i u}, groupOf c = some (i, u) → exec c ⟨p, w⟩ = .next ⟨q, w⟩ := fun hc =>
    (exec_eq_registerWrite hc p w).trans (write _ _)
  exact ⟨group rfl, group rfl, group rfl, group rfl, fun _ => group rfl, group rfl, fun _ => group rfl, fun _ => group rfl,
    fun _ => group rfl, fun _ => group rfl, group rfl, group rfl, group rfl, fun _ => group rfl⟩

/-! ### Frames (R171 to R174) -/

section
variable {p : Part} {b : Byte} (w : List Instr)

/-- The command byte of a write frame (R171, R172). -/
theorem exec_commandByte_write (h : p.link.frame = .idle) (hb : b.getLsbD 7 = true) :
    exec (.commandByte b) ⟨p, w⟩ = .next ⟨{ p with link := { p.link with
      frame := .frame { isWrite := true, index := b.extractLsb' 0 7, capture := none }, sample := 0 } }, w⟩ := by
  show Host.Outcome.next (State.mk (commandByteTaken p b) w) = _
  simp only [commandByteTaken, h, hb, if_true]

/-- The command byte of a read frame samples its register (R173). -/
theorem exec_commandByte_read (h : p.link.frame = .idle) (hb : b.getLsbD 7 = false) :
    exec (.commandByte b) ⟨p, w⟩ = .next ⟨sampled p (b.extractLsb' 0 7), w⟩ := by
  show Host.Outcome.next (State.mk (commandByteTaken p b) w) = _
  simp only [commandByteTaken, h, hb, Bool.false_eq_true, if_false]

/-- In an open frame, and on a link that ignores the clock, there is no command byte (R171, R174, log 32). -/
theorem exec_commandByte_busy (h : p.link.frame ≠ .idle) : exec (.commandByte b) ⟨p, w⟩ = .next ⟨p, w⟩ := by
  show Host.Outcome.next (State.mk (commandByteTaken p b) w) = _
  unfold commandByteTaken
  split
  · rfl
  · rfl
  next hidle => exact absurd hidle h

/-- PAIR_LO_READ of the register that a read frame comes to next samples it (R173). -/
theorem exec_pairLoRead_next {i : BitVec 7} {g : Frame} (hi : i ∈ pairLoIndexes) (h : p.link.frame = .frame g)
    (hg : g.isWrite = false) (hnext : g.index + 1 = i) :
    exec (.pairLoRead i) ⟨p, w⟩ = .next ⟨sampled p i, w⟩ := by
  show Host.Outcome.next (State.mk (if isPairLo i then pairLoSampled p i else p) w) = _
  rw [if_pos ((isPairLo_iff i).mpr hi)]
  simp only [pairLoSampled, h, hg, hnext, Bool.not_false, beq_self_eq_true, Bool.and_self, if_true]

end

/-- Settles O53. -/
theorem frameBeginsAndEnds : Obligations.FrameBeginsAndEnds := by
  intro p w b trailing i hi
  subst hi
  refine ⟨exec_commandByte_write w, fun h hb => ?_, exec_commandByte_busy w, rfl⟩
  rw [exec_commandByte_read w h hb, sampled, sampledAs_eq]

/-! ### Pairs (R173) -/

/-- A _LO register sampled captures the upper part of the same value (R173). -/
theorem sampled_pairLo {p : Part} {i : BitVec 7} (hi : i ∈ pairLoIndexes) : sampled p i = { p with link := { p.link with
    frame := .frame { isWrite := false, index := i, capture := some (readRegister p (i + 1)) },
    sample := readRegister p i } } := by
  rw [sampled, sampledAs_eq, if_pos hi]

/-- Settles O54: both ways to sample a _LO register capture its upper part, and the next sample of the frame is the captured
part. -/
theorem pairReadsOneValue : Obligations.PairReadsOneValue := by
  refine ⟨rfl, fun p later w i j v f q hi hf hq => ?_⟩
  subst hf hq
  refine ⟨fun b h hb hbi => ?_, fun g h hg hnext => ?_, fun h => ?_, fun b h hb hbi => ?_⟩
  · rw [exec_commandByte_read w h hb, hbi, sampled_pairLo hi]
  · rw [exec_pairLoRead_next w hi h hg hnext, sampled_pairLo hi]
  · exact ⟨_, exec_registerWrite_read j v w h rfl, rfl⟩
  · rw [← hbi]
    exact ⟨_, exec_commandByte_read w h hb, rfl⟩

/-! ### A write at the frame's index (R172, R175) -/

/-- In a write frame the link advances its index (R171, R172). -/
theorem afterGroup_write {l : Link} {f : Frame} (h : l.frame = .frame f) (hf : f.isWrite = true) :
    l.afterGroup = { l with frame := .frame { f with index := f.index + 1 } } := by
  simp only [Link.afterGroup, h, hf, if_true]

/-- Outside a write frame no index advances (R171, R173). -/
theorem afterGroup_unwritten {l : Link} (h : ∀ f, l.frame = .frame f → f.isWrite = false) : l.afterGroup = l := by
  unfold Link.afterGroup
  split
  · rfl
  · rfl
  next f hl => rw [h f hl]; rfl

/-- A group changes the link in its frame alone. -/
theorem afterGroup_eq (l : Link) : l.afterGroup = { l with frame := l.afterGroup.frame } := by
  unfold Link.afterGroup
  split
  · rfl
  · rfl
  · split <;> rfl

/-- A write at the frame's index: its effect, with the frame's index advanced (R171, R172). -/
theorem exec_registerWrite_at {p q : Part} {i : BitVec 7} {v : Word} {l : Link} (w : List Instr)
    (h : p.link.writesAt i = true) (hw : writeRegister p i v = q) (hl : { q.link with frame := p.link.afterGroup.frame } = l) :
    exec (.registerWrite i v) ⟨p, w⟩ = .next ⟨{ q with link := l }, w⟩ := by
  obtain ⟨f, hframe, hwrite, rfl⟩ := writesAt_iff.1 h
  show Host.Outcome.next (State.mk (groupTaken p f.index v _) w) = _
  rw [groupTaken_write hframe hwrite rfl, hw, ← hl, afterGroup_write hframe hwrite]

/-- Two values that do the same to the register at the frame's index are the same write. -/
theorem exec_registerWrite_congr {p : Part} {i : BitVec 7} {u v : Word} (w : List Instr) (h : p.link.writesAt i = true)
    (hw : writeRegister p i u = writeRegister p i v) :
    exec (.registerWrite i u) ⟨p, w⟩ = exec (.registerWrite i v) ⟨p, w⟩ := by
  obtain ⟨f, hframe, hwrite, rfl⟩ := writesAt_iff.1 h
  show Host.Outcome.next (State.mk (groupTaken p f.index u _) w) = .next ⟨groupTaken p f.index v _, w⟩
  rw [groupTaken_write hframe hwrite rfl, groupTaken_write hframe hwrite rfl, hw]

/-- A field as wide as an index is the index of its bits. -/
theorem fieldFin_eq_toFin (v : Word) (lo len : Nat) :
    fieldFin v lo len (2 ^ len) (Nat.two_pow_pos len) = (v.extractLsb' lo len).toFin := by
  apply Fin.ext
  show field v lo len % 2 ^ len = (v.extractLsb' lo len).toNat
  rw [field_eq_extractLsb']
  exact Nat.mod_eq_of_lt (v.extractLsb' lo len).isLt

/-! ### COMMAND (R175, R177) -/

/-- RETURN_SEGMENT's value in a write frame: its code and the segment above it (R175). -/
theorem commandValue_returnSegment (n : Fin 64) : commandValue 5 n.val = BitVec.ofNat 32 (5 + 8 * n.val) := by
  have hn : n.val % 2 ^ 6 = n.val := Nat.mod_eq_of_lt n.isLt
  simp only [commandValue, packed, packFields, hn, Nat.mul_zero, Nat.add_zero]
  rfl

/-- The value of a command without an operand is its code (R175). -/
theorem commandValue_code (code : BitVec 3) : commandValue code.toNat 0 = code.zeroExtend 32 := by
  revert code
  decide

/-- A write to COMMAND is judged by its code, and by its operand for RETURN_SEGMENT (R177). -/
theorem commandWritten_congr {p : Part} {u v : Word} (hcode : field u 0 3 = field v 0 3)
    (hoperand : field v 0 3 = 5 → field u 3 6 = field v 3 6) : commandWritten p u = commandWritten p v := by
  unfold commandWritten
  rw [hcode]
  split
  case h_5 h => rw [hoperand h]
  all_goals rfl

/-- A write to COMMAND is the command whose code, and whose operand where it has one, stand in their fields (R177). -/
theorem exec_registerWrite_command {p : Part} {v : Word} {c : Instr} {code operand : Nat} (w : List Instr)
    (h : p.link.writesAt 0x03 = true) (hc : groupOf c = some (0x03, commandValue code operand))
    (hcode : (v.extractLsb' 0 3).toNat = code) (hlt : operand < 64)
    (hoperand : code = 5 → (v.extractLsb' 3 6).toNat = operand) :
    exec (.registerWrite 0x03 v) ⟨p, w⟩ = exec c ⟨p, w⟩ := by
  have hcode8 : code < 8 := hcode ▸ (v.extractLsb' 0 3).isLt
  have hfield : field (commandValue code operand) 0 3 = code := field_commandValue_code code operand hcode8
  rw [exec_eq_registerWrite hc p w]
  refine exec_registerWrite_congr w h (commandWritten_congr (p := p) ?_ fun h5 => ?_)
  · rw [hfield, field_eq_extractLsb', hcode]
  · rw [field_commandValue_operand code operand hlt, field_eq_extractLsb', hoperand (hfield.symm.trans h5)]

/-- A write to COMMAND of a code is the command of that code, when the command has no operand (R177). -/
theorem exec_registerWrite_code {p : Part} {v : Word} {c : Instr} {code : BitVec 3} (w : List Instr)
    (h : p.link.writesAt 0x03 = true) (hc : groupOf c = some (0x03, commandValue code.toNat 0)) (h5 : code ≠ 5)
    (hcode : v.extractLsb' 0 3 = code) : exec (.registerWrite 0x03 v) ⟨p, w⟩ = exec c ⟨p, w⟩ :=
  exec_registerWrite_command w h hc (congrArg BitVec.toNat hcode) (by decide)
    fun hn => absurd (BitVec.eq_of_toNat_eq (y := 5#3) hn) h5

/-! ### Indexes that ignore a write (R172) -/

/-- The indexes of the registers that can be written (R172, R175). -/
def writableIndexes : List (BitVec 7) :=
  [0x01, 0x02, 0x03, 0x08, 0x09, 0x0A, 0x0B, 0x0C, 0x10, 0x11, 0x12, 0x13, 0x20, 0x28, 0x29, 0x2D, 0x2E, 0x32, 0x33, 0x37,
    0x38, 0x40, 0x51, 0x71, 0x72, 0x73]

/-- A channel's registers but the first two are read-only (R184). -/
theorem writeChannelRegister_readOnly (p : Part) (c : Chan) {k : Nat} (v : Word) (h0 : k ≠ 0) (h1 : k ≠ 1) :
    writeChannelRegister p c k v = p := by
  unfold writeChannelRegister
  split
  · exact absurd rfl h0
  · exact absurd rfl h1
  · rfl

/-- Of the channels' five registers only the first two can be written (R184). -/
theorem channelIndex_readOnly : ∀ i : BitVec 7, i ∉ writableIndexes → 0x28 ≤ i.toNat ∧ i.toNat ≤ 0x3B →
    (i.toNat - 0x28) % 5 ≠ 0 ∧ (i.toNat - 0x28) % 5 ≠ 1 := by decide

/-- A read-only or unmapped index ignores a write (R172). -/
theorem writeRegister_ignored (p : Part) {i : BitVec 7} (v : Word) (h : i ∉ writableIndexes) : writeRegister p i v = p := by
  have hne : i.toNat ∉ writableIndexes.map BitVec.toNat :=
    fun hi => h ((List.mem_map_of_injective BitVec.toNat_injective).mp hi)
  unfold writeRegister
  dsimp only
  split
  case h_19 =>
    split
    next hchannel =>
      obtain ⟨h0, h1⟩ := channelIndex_readOnly i h hchannel
      exact writeChannelRegister_readOnly p _ v h0 h1
    · rfl
  all_goals next hi => exact absurd (hi ▸ by decide) hne

/-- Settles O51. -/
theorem registerWriteReachesRegister : Obligations.RegisterWriteReachesRegister := by
  refine ⟨fun l => ⟨fun i => writesAt_iff, afterGroup_unwritten, fun f => afterGroup_write⟩, rfl, rfl, rfl,
    fun p w v f write hframe hwrite hw => ?_, fun p w v => ?_⟩
  · subst hw
    have group : ∀ {c i u}, groupOf c = some (i, u) → exec c ⟨p, w⟩ = exec (.registerWrite f.index u) ⟨p, w⟩ :=
      fun hc => exec_group_frameIndex w hc hframe hwrite
    exact ⟨fun _ => group rfl, fun _ => group rfl, fun _ => group rfl, fun _ => group rfl, group rfl, group rfl, group rfl,
      group rfl, group rfl, group rfl, group rfl, fun n => commandValue_returnSegment n ▸ group rfl, group rfl,
      fun code => commandValue_code code ▸ group rfl⟩
  · have own : ∀ {c i u}, groupOf c = some (i, u) → exec (.registerWrite i u) ⟨p, w⟩ = exec c ⟨p, w⟩ :=
      fun hc => (exec_eq_registerWrite hc p w).symm
    have advanced := afterGroup_eq p.link
    refine ⟨fun h => exec_registerWrite_at w h rfl advanced.symm, fun h => exec_registerWrite_at w h rfl advanced.symm,
      fun h => ?_, fun h => ?_, fun h => ?_, fun h => ?_, fun _ => own rfl, fun _ => own rfl, fun _ => own rfl, own rfl,
      own rfl, own rfl, fun h => ?_, fun i hi h => ?_⟩
    · rw [← fieldFin_eq_toFin]
      exact exec_registerWrite_at w h rfl advanced.symm
    · rw [← fieldFin_eq_toFin, advanced]
      exact exec_registerWrite_at (q := writeRegister p 0x20 v) w h rfl rfl
    · rw [← fieldFin_eq_toFin, advanced]
      exact exec_registerWrite_at (q := writeRegister p 0x40 v) w h rfl rfl
    · rw [← fieldFin_eq_toFin, advanced]
      exact exec_registerWrite_at (q := writeRegister p 0x51 v) w h rfl rfl
    · refine ⟨exec_registerWrite_code w h rfl (by decide), exec_registerWrite_code w h rfl (by decide),
        exec_registerWrite_code w h rfl (by decide), exec_registerWrite_code w h rfl (by decide), fun hcode => ?_,
        exec_registerWrite_code w h rfl (by decide), fun code hunknown => exec_registerWrite_code w h rfl ?_⟩
      · exact exec_registerWrite_command w h rfl (congrArg BitVec.toNat hcode) (v.extractLsb' 3 6).isLt fun _ => rfl
      · rcases hunknown with rfl | rfl <;> decide
    · exact exec_registerWrite_at w h (writeRegister_ignored p v hi) advanced.symm

end Sys2Proof.Proofs

/-! What the status, configuration, select, segment and channel registers show, register by register and field by field (R2,
R71, R92, R149, R173, R175, R176, R183, R184, R187). -/

namespace Sys2Proof.Proofs

open Sys2Proof.Machine Sys2Proof.Laws

/-! ### A register of one field -/

/-- A field wide enough for its value shows it whole. -/
theorem packed_single {k v : Nat} (h : v < 2 ^ k) : packed [(k, v)] = BitVec.ofNat 32 v := by
  simp only [packed, packFields, Nat.mod_eq_of_lt h, Nat.mul_zero, Nat.add_zero]

/-- A field of a value's own width shows its bits. -/
theorem packed_toNat {k : Nat} (x : BitVec k) : packed [(k, x.toNat)] = x.zeroExtend 32 :=
  (packed_single x.isLt).trans (BitVec.ofNat_toNat 32 x)

/-- A yes-or-no field alone in its register (log 48). -/
theorem packed_bit (b : Bool) : packed [(1, bit b)] = (if b then 1#1 else 0).zeroExtend 32 := by
  cases b <;> rfl

/-! ### The code of a value is its position in the rule's list (R175) -/

theorem mode_of_code (m : ArbiterMode) : ([.fair, .engineFirst] : List ArbiterMode)[codeOfMode m % 2]? = some m := by
  cases m <;> rfl

theorem class_of_code (c : RegionClass) :
    ([.pass, .guarded, .strict, .lenient, .marker] : List RegionClass)[codeOfClass c % 8]? = some c := by
  cases c <;> rfl

theorem busy_of_code (b : BusyCommand) :
    ([.none, .recover, .format, .softReset] : List BusyCommand)[codeOfBusy b % 4]? = some b := by
  cases b <;> rfl

theorem command_of_code (c : CommandName) :
    ([.none, .recover, .format, .start, .stop, .returnSegment, .softReset, .unknown] :
      List CommandName)[codeOfCommand c % 8]? = some c := by
  cases c <;> rfl

theorem commandResult_of_code (r : CommandResult) :
    ([.none, .done, .refused, .failed] : List CommandResult)[codeOfCommandResult r % 4]? = some r := by
  cases r <;> rfl

theorem commandReason_of_code (r : CommandReason) :
    ([.none, .unknownCommand, .busy, .geometryInvalid, .frozen, .recoveryState, .writerState, .notReady, .channelsBusy,
      .recordsInFlight, .noGeometry, .segmentRange, .notHeld, .readFault, .noJournal, .journalInconsistent,
      .restoreFault, .sequenceExhausted, .rebaseFault] : List CommandReason)[codeOfCommandReason r % 32]? = some r := by
  cases r <;> rfl

theorem detail_of_code (d : GeometryDetail) :
    ([.none, .baseAlign, .sizeCode, .segmentCount, .areaRange, .usableSegments, .regionOverlap] :
      List GeometryDetail)[codeOfDetail d % 8]? = some d := by
  cases d <;> rfl

theorem kind_of_code (k : Kind) : ([.read, .write] : List Kind)[codeOfKind k % 2]? = some k := by
  cases k <;> rfl

theorem protocol_of_code (r : ProtocolReason) :
    ([.none, .tagInUse, .badLength, .blockCrossing] : List ProtocolReason)[codeOfProtocol r % 4]? = some r := by
  cases r <;> rfl

theorem writerState_of_code (s : WriterState) :
    ([.stopped, .running, .suspended, .halted, .frozen] : List WriterState)[codeOfWriter s % 8]? = some s := by
  cases s <;> rfl

theorem haltCause_of_code (c : HaltCause) :
    ([.none, .recordWriteFault, .sequenceExhausted] : List HaltCause)[codeOfHalt c % 4]? = some c := by
  cases c <;> rfl

theorem segState_of_code (s : SegState) :
    ([.free, .active, .closed, .held, .excluded] : List SegState)[codeOfSegment s % 8]? = some s := by
  cases s <;> rfl

theorem action_of_code (a : MarkerAction) :
    ([.none, .commit, .abort] : List MarkerAction)[codeOfAction a % 4]? = some a := by
  cases a <;> rfl

theorem markerResult_of_code (r : MarkerResult) :
    ([.none, .pending, .done, .refused, .failed] : List MarkerResult)[codeOfResult r % 8]? = some r := by
  cases r <;> rfl

theorem markerReason_of_code (r : MarkerReason) :
    ([.none, .unknownAction, .channelState, .epochMismatch, .writerHalted, .frozen, .deadline, .softReset, .torn, .fault] :
      List MarkerReason)[codeOfReason r % 16]? = some r := by
  cases r <;> rfl

/-- Outside ROLLING_BACK the code is the state's, and the substate reads as QUEUED (R18, R184). -/
theorem channelState_of_code {s : ChannelState} (h : ∀ b, s ≠ .rollingBack b) :
    ([.idle, .opened, .committing] : List ChannelState)[(codeOfChannel s).1 % 4]? = some s ∧ (codeOfChannel s).2 = 0 := by
  cases s with
  | idle | opened | committing => exact ⟨rfl, rfl⟩
  | rollingBack b => exact absurd rfl (h b)

/-- In ROLLING_BACK the code beside it is the substate's (R18, R184). -/
theorem substate_of_code (b : Substate) : (codeOfChannel (.rollingBack b)).1 = 3 ∧
    ([.queued, .draining, .restoring, .recording] : List Substate)[(codeOfChannel (.rollingBack b)).2 % 4]? = some b := by
  cases b <;> exact ⟨rfl, rfl⟩

/-! ### The registers of several fields -/

section
variable (p : Part)

/-- CONFIG (R105, R156). -/
theorem config_fields (v : Word) (hv : v = readRegister p 0x01) :
    ([.fair, .engineFirst] : List ArbiterMode)[(v.extractLsb' 0 1).toNat]? = some p.arbiter.mode ∧
      v.extractLsb' 1 1 = (if p.writer.retain then 1 else 0) ∧ v.extractLsb' 2 30 = 0 := by
  have hpacked : v = packed [(1, codeOfMode p.arbiter.mode), (1, bit p.writer.retain)] := hv
  simp [hpacked, packed_head, packed_tail, packed_nil, ofNat_bit, mode_of_code]

/-- JOURNAL_GEOMETRY (R71, R72). -/
theorem geometry_fields (v : Word) (hv : v = readRegister p 0x09) :
    v.extractLsb' 0 3 = p.classifier.geometry.sizeCode ∧ v.extractLsb' 3 7 = p.classifier.geometry.count ∧
      v.extractLsb' 10 22 = 0 := by
  have hpacked : v = packed [(3, p.classifier.geometry.sizeCode.toNat), (7, p.classifier.geometry.count.toNat)] := hv
  simp [hpacked, packed_head, packed_tail, packed_nil]

/-- REGION_CONTROL of the selected entry (R2). -/
theorem regionControl_fields (v : Word) (e : RegionEntry) (he : e = getAt p.classifier.regions p.classifier.regionIndex)
    (hv : v = readRegister p 0x13) :
    v.extractLsb' 0 1 = (if e.enabled then 1 else 0) ∧
      ([.pass, .guarded, .strict, .lenient, .marker] : List RegionClass)[(v.extractLsb' 1 3).toNat]? = some e.cls ∧
      (v.extractLsb' 4 2).toNat = e.channel.val ∧ v.extractLsb' 6 26 = 0 := by
  subst he
  have hpacked : v = packed [(1, bit (getAt p.classifier.regions p.classifier.regionIndex).enabled),
    (3, codeOfClass (getAt p.classifier.regions p.classifier.regionIndex).cls),
    (2, (getAt p.classifier.regions p.classifier.regionIndex).channel.val)] := hv
  simp [hpacked, packed_head, packed_tail, packed_nil, ofNat_bit, class_of_code]

/-- COMMAND_STATUS (R176). -/
theorem commandStatus_fields :
    (commandStatus p).extractLsb' 0 1 = (if p.command.busy != .none then 1 else 0) ∧
    ([.none, .recover, .format, .softReset] : List BusyCommand)[((commandStatus p).extractLsb' 1 2).toNat]? =
      some p.command.busy ∧
    ([.none, .recover, .format, .start, .stop, .returnSegment, .softReset, .unknown] :
      List CommandName)[((commandStatus p).extractLsb' 3 3).toNat]? = some p.command.last.command ∧
    ([.none, .done, .refused, .failed] : List CommandResult)[((commandStatus p).extractLsb' 6 2).toNat]? =
      some p.command.last.result ∧
    ([.none, .unknownCommand, .busy, .geometryInvalid, .frozen, .recoveryState, .writerState, .notReady, .channelsBusy,
      .recordsInFlight, .noGeometry, .segmentRange, .notHeld, .readFault, .noJournal, .journalInconsistent,
      .restoreFault, .sequenceExhausted, .rebaseFault] :
      List CommandReason)[((commandStatus p).extractLsb' 8 5).toNat]? = some p.command.last.reason ∧
    ([.none, .baseAlign, .sizeCode, .segmentCount, .areaRange, .usableSegments, .regionOverlap] :
      List GeometryDetail)[((commandStatus p).extractLsb' 13 3).toNat]? = some p.command.last.detail ∧
    ((commandStatus p).extractLsb' 16 4).toNat = p.command.last.overlap.val ∧ (commandStatus p).extractLsb' 20 12 = 0 := by
  simp [commandStatus, packed_head, packed_tail, packed_nil, ofNat_bit, busy_of_code, command_of_code,
    commandResult_of_code, commandReason_of_code, detail_of_code]

/-- PROTOCOL_STATUS (R149). -/
theorem protocolStatus_fields :
    ((protocolStatus p).extractLsb' 0 4).toNat = p.port.protocol.tag.val ∧
    ([.read, .write] : List Kind)[((protocolStatus p).extractLsb' 4 1).toNat]? = some p.port.protocol.kind ∧
    ([.none, .tagInUse, .badLength, .blockCrossing] :
      List ProtocolReason)[((protocolStatus p).extractLsb' 5 2).toNat]? = some p.port.protocol.reason ∧
    (protocolStatus p).extractLsb' 7 25 = 0 := by
  simp [protocolStatus, packed_head, packed_tail, packed_nil, kind_of_code, protocol_of_code]

/-- OCCUPANCY (R46, R51). -/
theorem occupancy_fields (v : Word) (hv : v = readRegister p 0x07) :
    (v.extractLsb' 0 4).toNat = p.hold.queue.length % 16 ∧ (v.extractLsb' 4 11).toNat = p.tracker.length % 2048 ∧
      v.extractLsb' 15 17 = 0 := by
  have hpacked : v = packed [(4, p.hold.queue.length), (11, p.tracker.length)] := hv
  simp [hpacked, packed_head, packed_tail, packed_nil]

/-- EVENT_STATUS (R187). -/
theorem eventStatus_fields :
    (eventStatus p).extractLsb' 0 18 = p.events.flags ∧ (eventStatus p).extractLsb' 18 12 = 0 ∧
    (eventStatus p).extractLsb' 30 1 = (if normalSummary p then 1 else 0) ∧
    (eventStatus p).extractLsb' 31 1 = (if abnormalSummary p then 1 else 0) := by
  simp [eventStatus, packed_head, packed_tail, ofNat_bit]

/-- WRITER_STATUS (R89, R183). -/
theorem writerStatus_fields :
    ([.stopped, .running, .suspended, .halted, .frozen] :
      List WriterState)[((writerStatus p).extractLsb' 0 3).toNat]? = some p.writer.state ∧
    ([.none, .recordWriteFault, .sequenceExhausted] : List HaltCause)[((writerStatus p).extractLsb' 3 2).toNat]? =
      some p.writer.haltCause ∧
    (writerStatus p).extractLsb' 5 1 = (if p.writer.haltSegment.isSome then 1 else 0) ∧
    ((writerStatus p).extractLsb' 6 6).toNat = p.writer.haltSegment.getD 0 % 64 ∧
    (writerStatus p).extractLsb' 12 1 = (if p.writer.active.isSome then 1 else 0) ∧
    ((writerStatus p).extractLsb' 13 6).toNat = p.writer.active.getD 0 % 64 ∧
    ((writerStatus p).extractLsb' 19 7).toNat = (p.writer.table.filter fun e => e.state == .free).length % 128 ∧
    (writerStatus p).extractLsb' 26 1 = (if p.power.frozen then 1 else 0) ∧
    (writerStatus p).extractLsb' 27 1 = (if p.power.pfail then 1 else 0) ∧ (writerStatus p).extractLsb' 28 4 = 0 := by
  simp [writerStatus, packed_head, packed_tail, packed_nil, presence_fst, presence_snd, ofNat_bit, writerState_of_code,
    haltCause_of_code, freeCount, List.countP_eq_length_filter]

/-- The segment window at a segment that is present (R92, R183). -/
theorem segment_fields {e : SegEntry} (he : p.writer.table[p.link.segmentIndex.val]? = some e) :
    (segmentState p).extractLsb' 0 1 = 1 ∧
    ([.free, .active, .closed, .held, .excluded] : List SegState)[((segmentState p).extractLsb' 1 3).toNat]? =
      some e.state ∧
    ((segmentState p).extractLsb' 4 12).toNat = e.used % 4096 ∧
    ((segmentState p).extractLsb' 16 8).toNat = e.lastLen % 256 ∧
    (segmentState p).extractLsb' 24 4 = e.mask ∧ (segmentState p).extractLsb' 28 4 = 0 ∧ windowFirst p = e.first := by
  have hwindow : windowSegment p = some e := he
  simp [segmentState, windowFirst, hwindow, packed_head, packed_tail, packed_nil, segState_of_code]

/-- The segment window at a segment that is not present (R183). -/
theorem segment_absent (h : p.writer.table[p.link.segmentIndex.val]? = none) : segmentState p = 0 ∧ windowFirst p = 0 := by
  have hwindow : windowSegment p = none := h
  simp only [segmentState, windowFirst, hwindow, and_self]

end

/-- CHANNEL_STATE (R18, R184). -/
theorem channelState_fields (ch : Channel) :
    ((∀ s, ch.state ≠ .rollingBack s) →
      ([.idle, .opened, .committing] : List ChannelState)[((channelState ch).extractLsb' 0 2).toNat]? = some ch.state ∧
      (channelState ch).extractLsb' 2 2 = 0) ∧
    (∀ s, ch.state = .rollingBack s → (channelState ch).extractLsb' 0 2 = 3 ∧
      ([.queued, .draining, .restoring, .recording] : List Substate)[((channelState ch).extractLsb' 2 2).toNat]? = some s) ∧
    (channelState ch).extractLsb' 4 1 = (if ch.exhausted then 1 else 0) ∧
    (channelState ch).extractLsb' 5 1 = (if ch.torn then 1 else 0) ∧
    (channelState ch).extractLsb' 6 1 = (if ch.overflow then 1 else 0) ∧
    ((channelState ch).extractLsb' 7 5).toNat = ch.outstanding % 32 ∧
    ([.none, .commit, .abort] : List MarkerAction)[((channelState ch).extractLsb' 12 2).toNat]? = some ch.last.action ∧
    ([.none, .pending, .done, .refused, .failed] : List MarkerResult)[((channelState ch).extractLsb' 14 3).toNat]? =
      some ch.last.result ∧
    ([.none, .unknownAction, .channelState, .epochMismatch, .writerHalted, .frozen, .deadline, .softReset, .torn, .fault] :
      List MarkerReason)[((channelState ch).extractLsb' 17 4).toNat]? = some ch.last.reason ∧
    (channelState ch).extractLsb' 21 11 = 0 := by
  refine ⟨fun h => ?_, fun s h => ?_, ?_⟩
  · obtain ⟨hstate, hsub⟩ := channelState_of_code h
    simp [channelState, packed_head, packed_tail, hstate, hsub]
  · obtain ⟨hstate, hsub⟩ := substate_of_code s
    simp [channelState, h, packed_head, packed_tail, hstate, hsub]
  · simp [channelState, packed_head, packed_tail, packed_nil, ofNat_bit, action_of_code, markerResult_of_code,
      markerReason_of_code]

/-! ### Registers of one value, and indexes that read 0 -/

section
variable (p : Part)

/-- HOLD_LIMIT, COMMAND, the geometry, the region window and the selects (R2, R53, R71, R175). -/
theorem single_values :
    readRegister p 0x02 = p.hold.limit.zeroExtend 32 ∧ readRegister p 0x03 = 0 ∧
    readRegister p 0x08 = p.classifier.geometry.base.zeroExtend 32 ∧
    readRegister p 0x0A = p.classifier.geometry.identity ∧
    readRegister p 0x0B = p.classifier.geometry.exclude.extractLsb' 0 32 ∧
    readRegister p 0x0C = p.classifier.geometry.exclude.extractLsb' 32 32 ∧
    readRegister p 0x10 = BitVec.ofNat 32 p.classifier.regionIndex.val ∧
    readRegister p 0x11 = (getAt p.classifier.regions p.classifier.regionIndex).base.zeroExtend 32 ∧
    readRegister p 0x12 = (getAt p.classifier.regions p.classifier.regionIndex).limit.zeroExtend 32 ∧
    readRegister p 0x20 = BitVec.ofNat 32 p.link.segmentIndex.val ∧
    readRegister p 0x40 = BitVec.ofNat 32 p.link.statSelect.val ∧
    readRegister p 0x51 = BitVec.ofNat 32 p.link.reportSelect.val :=
  ⟨packed_toNat p.hold.limit, rfl, packed_toNat p.classifier.geometry.base, rfl, rfl, rfl,
    packed_single (k := 4) p.classifier.regionIndex.isLt, packed_toNat _, packed_toNat _,
    packed_single (k := 6) p.link.segmentIndex.isLt, packed_single (k := 2) p.link.statSelect.isLt,
    packed_single (k := 2) p.link.reportSelect.isLt⟩

/-- The indexes that no register has (R175). -/
def unmappedIndexes : List (BitVec 7) :=
  [0x0D, 0x0E, 0x0F, 0x14, 0x15, 0x16, 0x17, 0x1D, 0x1E, 0x1F, 0x24, 0x25, 0x26, 0x27, 0x3C, 0x3D, 0x3E, 0x3F, 0x4F,
    0x68, 0x69, 0x6A, 0x6B, 0x6C, 0x6D, 0x6E, 0x6F, 0x74, 0x75, 0x76, 0x77, 0x78, 0x79, 0x7A, 0x7B, 0x7C, 0x7D, 0x7E, 0x7F]

/-- An index that no register has reads as 0 (R173). -/
theorem readRegister_unmapped : ∀ i ∈ unmappedIndexes, readRegister p i = 0 :=
  List.map_eq_replicate_iff.mp rfl

end

/-- Settles O55, register by register. -/
theorem statusRegistersShowState : Obligations.StatusRegistersShowState := by
  intro p v yes hyes
  subst hyes
  refine ⟨rfl, config_fields p v, single_values p, geometry_fields p v, regionControl_fields p v, readRegister_unmapped p,
    fun hv => ?_, fun hv => ?_, rfl, occupancy_fields p v, fun hv => ?_, fun hv => ?_, ⟨rfl, rfl, rfl, rfl⟩, fun hv => ?_,
    fun c hv => ?_⟩
  · subst hv
    exact commandStatus_fields p
  · subst hv
    exact protocolStatus_fields p
  · subst hv
    exact eventStatus_fields p
  · subst hv
    exact writerStatus_fields p
  · subst hv
    refine ⟨fun e he => ?_, fun he => ?_⟩
    · obtain ⟨hpresent, hstate, hused, hlast, hmask, hrest, hfirst⟩ := segment_fields p he
      exact ⟨hpresent, hstate, hused, hlast, hmask, hrest, hfirst ▸ rfl, hfirst ▸ rfl⟩
    · obtain ⟨hstate, hfirst⟩ := segment_absent p he
      exact ⟨hstate, congrArg lowPart hfirst, congrArg highPart hfirst⟩
  · obtain ⟨henabled, hcode, hstate, hepoch, hresolved⟩ := readRegister_channel p c
    obtain ⟨houtside, hrolling, hexhausted, htorn, hoverflow, hcount, haction, hresult, hreason, hrest⟩ :=
      channelState_fields (chan p c)
    rw [hv.trans hstate]
    exact ⟨houtside, hrolling, hexhausted, htorn, hoverflow, hcount, haction, hresult, hreason, hrest,
      henabled.trans (packed_bit _), hcode, hepoch, hresolved⟩

end Sys2Proof.Proofs

/-! The event registers and the interrupt: where each event stands, what a write to EVENT_CLEAR, EVENT_SET or EVENT_ENABLE does
to each bit, and how the summaries and IRQ follow the flags that are set and enabled (R186, R188 to R190). -/

namespace Sys2Proof.Proofs

open Sys2Proof.Machine Sys2Proof.Laws

/-! ### The events in the order of their bits (R186) -/

/-- The events of R186's table, from bit 0 up. -/
def eventTable : List Event :=
  [.commitDone, .abortDone, .segmentHeld, .recoveryDone, .writerSuspended, .writerHalted, .holdExpired, .epochTorn,
    .copyFault, .dataFault, .rollbackFault, .recoveryFailed, .trackerOverflow, .protocolError, .configRefused,
    .commandRefused, .markerIgnored, .pfailFrozen]

/-- Each event stands in the table at its bit. -/
theorem eventTable_eventBit (e : Event) : eventTable[eventBit e]? = some e := by
  cases e <;> rfl

/-- No event stands in the table twice. -/
theorem eventTable_nodup : eventTable.Nodup := by decide

/-- An event's bit is its place in the table. -/
theorem eventTable_getElem?_eq_some_iff {i : Nat} {e : Event} : eventTable[i]? = some e ↔ i = eventBit e := by
  refine ⟨fun h => ?_, fun h => h ▸ eventTable_eventBit e⟩
  obtain ⟨hlt, -⟩ := List.getElem?_eq_some_iff.mp h
  exact (List.getElem?_inj hlt eventTable_nodup).mp (h.trans (eventTable_eventBit e).symm)

/-! ### The summaries and IRQ (R189, R190) -/

/-- The normal events are those of bits 0 to 3. -/
theorem normalEvents_bit (i : Nat) : normalEvents.getLsbD i = decide (i < 4) := by
  have low : ∀ j : Fin 18, normalEvents.getLsbD j = decide (j.val < 4) := by decide
  rcases Nat.lt_or_ge i 18 with h | h
  · exact low ⟨i, h⟩
  · rw [BitVec.getLsbD_of_ge _ _ h, decide_eq_false (by omega)]

/-- NORMAL_SUMMARY: a flag of bits 0 to 3 is set and enabled. -/
theorem normalSummary_iff (p : Part) : normalSummary p = true ↔
    ∃ i, i < 4 ∧ p.events.flags.getLsbD i = true ∧ p.events.enables.getLsbD i = true := by
  unfold normalSummary
  rw [ne_zero_iff_bit]
  simp only [BitVec.getLsbD_and, normalEvents_bit, Bool.and_eq_true, decide_eq_true_eq]
  constructor
  · rintro ⟨i, -, ⟨hflag, henable⟩, hnormal⟩
    exact ⟨i, hnormal, hflag, henable⟩
  · rintro ⟨i, hnormal, hflag, henable⟩
    exact ⟨i, by omega, ⟨hflag, henable⟩, hnormal⟩

/-- ABNORMAL_SUMMARY: a flag of bits 4 to 17 is set and enabled. -/
theorem abnormalSummary_iff (p : Part) : abnormalSummary p = true ↔
    ∃ i, 4 ≤ i ∧ i < 18 ∧ p.events.flags.getLsbD i = true ∧ p.events.enables.getLsbD i = true := by
  unfold abnormalSummary
  rw [ne_zero_iff_bit]
  simp only [BitVec.getLsbD_and, BitVec.getLsbD_not, normalEvents_bit, Bool.and_eq_true, decide_eq_true_eq,
    Bool.not_eq_true', decide_eq_false_iff_not, Nat.not_lt]
  constructor
  · rintro ⟨i, hlt, ⟨hflag, henable⟩, -, habnormal⟩
    exact ⟨i, habnormal, hlt, hflag, henable⟩
  · rintro ⟨i, habnormal, hlt, hflag, henable⟩
    exact ⟨i, hlt, ⟨hflag, henable⟩, hlt, habnormal⟩

/-- IRQ is low while either summary is set. -/
theorem irqLow_iff (p : Part) : irqLow p = true ↔ normalSummary p = true ∨ abnormalSummary p = true :=
  Bool.or_eq_true_iff

/-- Any flag that is set and enabled drives IRQ low: each bit counts in one of the two summaries. -/
theorem irqLow_of_enabled {p : Part} {i : Nat} (hi : i < 18) (hflag : p.events.flags.getLsbD i = true)
    (henable : p.events.enables.getLsbD i = true) : irqLow p = true := by
  rw [irqLow_iff, normalSummary_iff, abnormalSummary_iff]
  rcases Nat.lt_or_ge i 4 with h | h
  · exact .inl ⟨i, h, hflag, henable⟩
  · exact .inr ⟨i, h, hi, hflag, henable⟩

/-! ### Writes to the event registers (R188, R189) -/

section
variable (p : Part) (v : Word)

/-- A write to EVENT_CLEAR, flag by flag. -/
theorem clearEvents_flag (i : Nat) :
    (clearEvents p v).events.flags.getLsbD i = (p.events.flags.getLsbD i && !v.getLsbD i) := by
  show (p.events.flags &&& ~~~ v.extractLsb' 0 18).getLsbD i = _
  rcases Nat.lt_or_ge i 18 with h | h
  · simp [h]
  · simp [BitVec.getLsbD_of_ge p.events.flags i h]

/-- A write to EVENT_SET, flag by flag. -/
theorem setEvents_flag {i : Nat} (hi : i < 18) :
    (setEvents p v).events.flags.getLsbD i = (p.events.flags.getLsbD i || v.getLsbD i) := by
  show (p.events.flags ||| v.extractLsb' 0 18).getLsbD i = _
  simp [hi]

/-- A write to EVENT_ENABLE, enable by enable. -/
theorem enableEvents_enable {i : Nat} (hi : i < 18) : (enableEvents p v).events.enables.getLsbD i = v.getLsbD i := by
  show (v.extractLsb' 0 18).getLsbD i = _
  simp [hi]

/-- EVENT_ENABLE reads as the enables (log 48). -/
theorem readRegister_eventEnable : readRegister p 0x71 = p.events.enables.zeroExtend 32 :=
  packed_toNat p.events.enables

/-- What EVENT_ENABLE reads, bit by bit: above bit 17 there is no enable, and 0 is read. -/
theorem readRegister_eventEnable_bit (i : Nat) :
    (readRegister p 0x71).getLsbD i = p.events.enables.getLsbD i := by
  rw [readRegister_eventEnable, BitVec.getLsbD_setWidth, Bool.and_eq_right_iff_imp, decide_eq_true_eq]
  exact fun h => (BitVec.lt_of_getLsbD h).trans (by decide)

end

section
variable {p : Part} (v : Word) (w : List Instr)

/-- EVENT_CLEAR at its own index (R188). -/
theorem exec_eventClear (h : p.link.writesAt 0x72 = true) :
    exec (.eventClear v) ⟨p, w⟩ = .next ⟨{ clearEvents p v with link := p.link.afterGroup }, w⟩ :=
  changed_groupTaken (act := fun q => clearEvents q v) v w h rfl

/-- EVENT_SET at its own index (R188). -/
theorem exec_eventSet (h : p.link.writesAt 0x73 = true) :
    exec (.eventSet v) ⟨p, w⟩ = .next ⟨{ setEvents p v with link := p.link.afterGroup }, w⟩ :=
  changed_groupTaken (act := fun q => setEvents q v) v w h rfl

/-- EVENT_ENABLE at its own index (R189). -/
theorem exec_eventEnable (h : p.link.writesAt 0x71 = true) :
    exec (.eventEnable v) ⟨p, w⟩ = .next ⟨{ enableEvents p v with link := p.link.afterGroup }, w⟩ :=
  changed_groupTaken (act := fun q => enableEvents q v) v w h rfl

end

/-- Settles O49: the flags after each write are those of the effect, bit by bit, and a flag that EVENT_SET sets is one that
drives IRQ low when it is enabled. -/
theorem eventRegistersAct : Obligations.EventRegistersAct := by
  intro p w v
  refine ⟨fun h => ⟨_, clearEvents_flag p v, exec_eventClear v w h⟩,
    fun h => ⟨_, fun i => setEvents_flag p v, exec_eventSet v w h, ?_⟩, rfl, rfl⟩
  rintro q hq ⟨i, hi, hforced, henable⟩
  have hflag : q.events.flags.getLsbD i = true := by
    rw [hq]
    exact (setEvents_flag p v hi).trans (by rw [hforced, Bool.or_true])
  exact irqLow_of_enabled hi hflag (hq ▸ henable)

/-- Settles O50: the enables written and read bit by bit, the summaries and IRQ by the flags set and enabled, and each event's
mask by its place in the table. -/
theorem irqFollowsSummaries : Obligations.IrqFollowsSummaries := by
  refine ⟨fun p w v => ⟨fun h => ⟨_, fun i => enableEvents_enable p v, exec_eventEnable v w h⟩,
    readRegister_eventEnable_bit p, normalSummary_iff p, abnormalSummary_iff p, irqLow_iff p⟩, fun i e he => ?_⟩
  rw [eventTable_getElem?_eq_some_iff.mp he, eventMask]

end Sys2Proof.Proofs

/-! What a step does with the queue: it takes the front, and the command taken neither reads nor changes what waits behind it
(log 2). -/

namespace Sys2Proof.Proofs

open Sys2Proof.Machine

/-- The part that a command leaves, carried out with nothing waiting behind it. -/
def partAfter (c : Instr) (p : Part) : Part :=
  match exec c ⟨p, []⟩ with
  | .next t => t.part
  | .fault _ | .refused _ => p

/-- No command ends in a fault or a refusal, and what waits behind it makes no difference: every arm of `exec` is a change of
the part. -/
theorem exec_eq_next (c : Instr) (p : Part) (w : List Instr) : exec c ⟨p, w⟩ = .next ⟨partAfter c p, w⟩ := by
  cases c <;> rfl

/-- Settles O1: the arm of `step` for a queue with a command at its front. -/
theorem stepRunsFront : Obligations.StepRunsFront := by
  intro c rest s h
  simp only [step, h]

/-- Settles O3: the next state holds the part that the command leaves, and the queue it met. -/
theorem everyCommandAnswersNext : Obligations.EveryCommandAnswersNext := fun c s =>
  ⟨partAfter c s.part, exec_eq_next c s.part s.pending⟩

end Sys2Proof.Proofs
